-- ==== Sys2Proof/Word.lean ====
section
/-! DEFINITION. The word types of the block: a byte, and the two command words. -/

namespace Sys2Proof

/-- An unsigned 8-bit value (00_scope section 9). -/
abbrev Byte := BitVec 8

/-- An encoder command word `tx_op` (30_encoding R42). -/
abbrev TxWord := BitVec 10

/-- A command word `crc_op` of a CRC8 unit taken on its own (30_encoding R43). -/
abbrev CrcWord := BitVec 9

end Sys2Proof
end

