-- ==== Sys2Proof/Machine/Units.lean ====
section
/-! DEFINITION. The named values of the block's units: the states of RX and TX, the units, the turns of
the schedule, and the causes for which a frame is dropped. -/

namespace Sys2Proof.Machine

/-- The receiver's state, exactly three values (10_state R12; the code 0b11 cannot be written down, U8). -/
inductive RxState where
  /-- Between frames, waiting for a start marker. -/
  | idle
  /-- A frame is open; the next byte is a marker, an escape byte or a literal. -/
  | receiving
  /-- A frame is open and the previous byte was the escape byte. -/
  | escaping
  deriving DecidableEq, Repr

/-- The encoder's state (10_state R15). -/
inductive TxState where
  /-- `TxIdle`: no frame open. -/
  | idle
  /-- `TxActive`: a start marker has been emitted and the end marker has not. -/
  | active
  deriving DecidableEq, Repr

/-- Which part of the block an operation belongs to; RESET acts on all of it (60_exceptions R93). -/
inductive UnitName where
  | rx | tx | crc | block
  deriving DecidableEq, Repr

/-- Who moves next: a unit takes its next input, or one of the outside agents of 70_reset_and_hazards R107
acts. The byte source and the frame producer act by what stands in State's input streams. -/
inductive Turn where
  /-- RX takes a raw byte from `rx_in`. -/
  | rx
  /-- TX takes a command word from `tx_cmd`. -/
  | tx
  /-- The CRC8 unit taken on its own takes a command word. -/
  | crc
  /-- The packet consumer finishes with the packet it holds (R99). -/
  | consumer
  /-- The byte sink takes one emitted byte (R103). -/
  | sink
  /-- The reset driver asserts the `reset` input (R95). -/
  | resetDriver
  deriving DecidableEq, Repr

/-- Why a frame in progress is dropped (60_exceptions R83). A cause is never stored (R84). -/
inductive DropCause where
  | framingError | emptyFrame | protocolViolation | abandoned | overflow
  deriving DecidableEq, Repr

end Sys2Proof.Machine
end

