-- ==== Sys2Proof/Machine/Wire.lean ====
section
/-! DEFINITION. The wire constants, the reserved bytes and the escape code (00_scope R5 and R6,
30_encoding R35), and the binary codes of the two unit states (10_state R12 and R15). The literals
are the spec's, which no source audits (UNVERIFIED, unsafe; log entry 12). -/

namespace Sys2Proof.Machine

/-- The start marker `SOF` (00_scope R5). -/
def sof : Byte := 0x55

/-- The end marker `EOF` (R5). -/
def eof : Byte := 0x5A

/-- The escape byte `ESC` (R5). -/
def escByte : Byte := 0x50

/-- `POLY`, the CRC8 tap mask in the LSB-first orientation (R5). -/
def poly : Byte := 0x8C

/-- `HDR_LEN`, the bytes of a packet header (R5). -/
def hdrLen : Nat := 3

/-- `Reserved(b)`: one of the three reserved values (00_scope R6). -/
def reserved (b : Byte) : Bool := b == sof || b == eof || b == escByte

/-- The 8-bit complement `~b = b XOR 0xFF` (00_scope section 9). -/
def complement (b : Byte) : Byte := b ^^^ 0xFF

/-- `Esc(b)`: the one or two wire bytes of a decoded byte (30_encoding R35). -/
def esc (b : Byte) : List Byte := if reserved b then [escByte, complement b] else [b]

/-- The binary code of `rx_state` (10_state R12, the spec's decision D12). -/
def rxStateCode : RxState → BitVec 2
  | .idle => 0b00
  | .receiving => 0b01
  | .escaping => 0b10

/-- The binary code of `tx_state` (10_state R15, the spec's decision D12). -/
def txStateCode : TxState → BitVec 1
  | .idle => 0
  | .active => 1

end Sys2Proof.Machine
end

