-- ==== Sys2Proof/Machine/Crc8.lean ====
section
/-! DEFINITION. The CRC8 update function and the CRC8 of a sequence (40_crc8 R46 and R49). The loop is the
spec's own reading of the document (R46, decision D2): PRESUMED, unsafe if that reading is wrong (log entry
11). -/

namespace Sys2Proof.Machine

/-- One iteration of R46: shift right, and invert the taps when the bit shifted out is 1. -/
def crcShift (x : Byte) : Byte := if x.getLsbD 0 then (x >>> 1) ^^^ poly else x >>> 1

/-- `n` iterations of R46. -/
def crcShifts : Nat → Byte → Byte
  | 0, x => x
  | n + 1, x => crcShifts n (crcShift x)

/-- `crc8_update(acc, b)` (R46). -/
def crc8Update (acc b : Byte) : Byte := crcShifts 8 (acc ^^^ b)

/-- `Crc8From(a, s)` (R49). -/
def crc8From (a : Byte) (s : List Byte) : Byte := s.foldl crc8Update a

/-- One iteration of the bit-serial form of R46: one data bit enters, least significant first. -/
def crcBitStep (acc : Byte) (d : Bool) : Byte :=
  if xor (acc.getLsbD 0) d then (acc >>> 1) ^^^ poly else acc >>> 1

/-- The bit-serial form of `crc8_update` (40_crc8, after R46). -/
def crc8UpdateSerial (acc b : Byte) : Byte :=
  [0, 1, 2, 3, 4, 5, 6, 7].foldl (fun a i => crcBitStep a (b.getLsbD i)) acc

/-- One iteration of the shift-register form, bit by bit (40_crc8, after R46): the feedback enters bit 7 and
inverts bits 3 and 2. -/
def crcRegisterStep (a : Byte) (d : Bool) : Byte :=
  let fb := xor (a.getLsbD 0) d
  BitVec.ofBoolListBE
    [fb, a.getLsbD 7, a.getLsbD 6, a.getLsbD 5, xor (a.getLsbD 4) fb, xor (a.getLsbD 3) fb, a.getLsbD 2,
      a.getLsbD 1]

/-- `T[x] = crc8_update(0x00, x)` (R51). -/
def crcTable (x : Byte) : Byte := crc8Update 0x00 x

end Sys2Proof.Machine
end

