-- ==== Sys2Proof/Config.lean ====
section
/-! DEFINITION. The two static parameters of the block (00_scope R7). State holds one value of this
type, which no operation changes, so a statement about every state is one about every parameter value. -/

namespace Sys2Proof

/-- The parameters that are fixed when the block is built (00_scope R7, decisions D1 and D3). -/
structure Config where
  /-- `CRC_INIT`: the value an accumulator takes when it is reset or cleared. -/
  crcInit : Byte
  /-- `BUF_CAP`: how many decoded bytes the receive buffer can hold; `none` is "unbounded". -/
  bufCap : Option Nat
  deriving DecidableEq, Repr

/-- The values State.reset is built with: `CRC_INIT` at the spec's default 0x00 (R7, D1) and `BUF_CAP`
unbounded. DESIGN CHOICE (unsafe; log entries 1 and 2): the spec leaves `BUF_CAP` OPEN and says that
unbounded reproduces the document exactly (D3). -/
def Config.default : Config := { crcInit := 0x00, bufCap := none }

/-- `BUF_CAP` is an integer at least 4, or unbounded (R7). -/
abbrev Config.wf (c : Config) : Prop := ∀ k ∈ c.bufCap, 4 ≤ k

end Sys2Proof
end

