-- ==== Sys2Proof/Syntax.lean ====
section
/-! DEFINITION. The operations of the block, one constructor per row of spec/opcode_table.json. -/

namespace Sys2Proof

/-- The operations (30_encoding R38, R42 and R43, 70_reset_and_hazards R95). An operand is kept where the
spec gives the operation one (R39): ignored bits of a word are no operand. -/
inductive Instr where
  /-- RX.START (42_frame_receiver R66). -/
  | rxStart
  /-- RX.IGNORE (R67): the raw byte carries nothing but the selection. -/
  | rxIgnore
  /-- RX.END (R68). -/
  | rxEnd
  /-- RX.ESC (R69). -/
  | rxEsc
  /-- RX.XDATA `b`, the raw byte (R70). -/
  | rxXdata (b : Byte)
  /-- RX.DATA `b`, the raw byte (R71). -/
  | rxData (b : Byte)
  /-- TX.RESERVED: the reserved command code 00 (60_exceptions R91). -/
  | txReserved
  /-- TX.OPEN (41_frame_encoder R56). -/
  | txOpen
  /-- TX.BYTE `b` (R57). -/
  | txByte (b : Byte)
  /-- TX.CLOSE (R58). -/
  | txClose
  /-- CRC.CLEAR (40_crc8 R47). -/
  | crcClear
  /-- CRC.UPDATE `b` (R48). -/
  | crcUpdate (b : Byte)
  /-- RESET (70_reset_and_hazards R95). -/
  | reset
  deriving DecidableEq, Repr

end Sys2Proof
end

