-- ==== Sys2Proof/WellFormed.lean ====
section
/-! DEFINITION. Which operations the encodings of the spec can express (30_encoding R38): a raw byte that
an earlier row takes is no operand of a later row. -/

namespace Sys2Proof

/-- RX.XDATA takes any raw byte but the start marker, RX.DATA any that is not reserved (R38, R70, R71);
every other operation is well formed with every operand. -/
def Instr.wellFormed : Instr → Bool
  | .rxXdata b => b != Machine.sof
  | .rxData b => !Machine.reserved b
  | .rxStart => true
  | .rxIgnore => true
  | .rxEnd => true
  | .rxEsc => true
  | .txReserved => true
  | .txOpen => true
  | .txByte _ => true
  | .txClose => true
  | .crcClear => true
  | .crcUpdate _ => true
  | .reset => true

end Sys2Proof
end

