-- ==== Sys2Proof/Decode.lean ====
section
/-! DEFINITION. What is presented at an interface, how each unit decodes it, and the encoder back.
Decoding is total (30_encoding R38): no byte and no word is rejected; the reserved command code decodes to
TX.RESERVED, which has no step. -/

namespace Sys2Proof

/-- One transfer at an input interface of 10_state R21, or at the command input of a CRC8 unit taken on its
own: a raw byte, a command word, or the reset input, which has no word (R95). -/
inductive Transfer where
  | rxIn (b : Byte)
  | txCmd (w : TxWord)
  | crcOp (w : CrcWord)
  | resetIn
  deriving DecidableEq, Repr

open Machine

/-- RX's decoding of a raw byte, the tests in the order of `RxStep` (42_frame_receiver R65, 30_encoding
R38). -/
def decodeRx (st : RxState) (b : Byte) : Instr :=
  if b = sof then .rxStart
  else if st = .idle then .rxIgnore
  else if st = .receiving ∧ b = eof then .rxEnd
  else if st = .receiving ∧ b = escByte then .rxEsc
  else if st = .escaping then .rxXdata b
  else .rxData b

/-- TX's decoding of a command word: bits 9:8 are the code, bits 7:0 the data byte (30_encoding R42). -/
def decodeTx (w : TxWord) : Instr :=
  if w.extractLsb' 8 2 = 0b00#2 then .txReserved
  else if w.extractLsb' 8 2 = 0b01#2 then .txOpen
  else if w.extractLsb' 8 2 = 0b10#2 then .txByte (w.extractLsb' 0 8)
  else .txClose

/-- A CRC8 unit's decoding of a command word: bit 8 is the code, bits 7:0 the data byte (30_encoding R43). -/
def decodeCrc (w : CrcWord) : Instr :=
  if w.extractLsb' 8 1 = 0#1 then .crcClear else .crcUpdate (w.extractLsb' 0 8)

/-- The operation a transfer selects; `st` is `rx_state`, the mode that changes RX's decoding (R38). -/
def decode (st : RxState) : Transfer → Instr
  | .rxIn b => decodeRx st b
  | .txCmd w => decodeTx w
  | .crcOp w => decodeCrc w
  | .resetIn => .reset

/-- The transfer that carries an operation, from the tables of 30_encoding R38, R42 and R43. Ignored data
bits are written as zero, as in 95_test_vectors P1; RX.IGNORE, which 255 raw bytes select, is written as
0x00 (DESIGN CHOICE, safe; log entry 14). RX.XDATA and RX.DATA carry the raw byte. -/
def encode : Instr → Transfer
  | .rxStart => .rxIn 0x55
  | .rxIgnore => .rxIn 0x00
  | .rxEnd => .rxIn 0x5A
  | .rxEsc => .rxIn 0x50
  | .rxXdata b => .rxIn b
  | .rxData b => .rxIn b
  | .txReserved => .txCmd (0b00#2 ++ 0x00#8)
  | .txOpen => .txCmd (0b01#2 ++ 0x00#8)
  | .txByte b => .txCmd (0b10#2 ++ b)
  | .txClose => .txCmd (0b11#2 ++ 0x00#8)
  | .crcClear => .crcOp (0#1 ++ 0x00#8)
  | .crcUpdate b => .crcOp (1#1 ++ b)
  | .reset => .resetIn

/-- The `rx_state` column of 30_encoding R38: the states in which a raw byte can select the operation.
`rx_state` is no part of the other units' decoding. -/
def Instr.selectedIn (st : RxState) : Instr → Bool
  | .rxStart => true
  | .rxIgnore => st == .idle
  | .rxEnd => st == .receiving
  | .rxEsc => st == .receiving
  | .rxXdata _ => st == .escaping
  | .rxData _ => st == .receiving
  | .txReserved => true
  | .txOpen => true
  | .txByte _ => true
  | .txClose => true
  | .crcClear => true
  | .crcUpdate _ => true
  | .reset => true

/-- The `match` and `mask` entries of an operation's row of spec/opcode_table.json; the row of RESET has
none, and its input is the single value 1. -/
def Instr.tableRow : Instr → Nat × Nat
  | .rxStart => (0x55, 0xFF)
  | .rxIgnore => (0x00, 0x00)
  | .rxEnd => (0x5A, 0xFF)
  | .rxEsc => (0x50, 0xFF)
  | .rxXdata _ => (0x00, 0x00)
  | .rxData _ => (0x00, 0x00)
  | .txReserved => (0x000, 0x300)
  | .txOpen => (0x100, 0x300)
  | .txByte _ => (0x200, 0x300)
  | .txClose => (0x300, 0x300)
  | .crcClear => (0x000, 0x100)
  | .crcUpdate _ => (0x100, 0x100)
  | .reset => (1, 1)

/-- A transfer's bits as one number, bit 0 the least significant. -/
def Transfer.bits : Transfer → Nat
  | .rxIn b => b.toNat
  | .txCmd w => w.toNat
  | .crcOp w => w.toNat
  | .resetIn => 1

/-- The transfer that an opcode-table word of `nbits` bits and value `w` stands for: one bit is the reset
input (format RST), up to 8 bits a raw byte (RXB), 9 bits a CRC8 command word (CRCC), 10 to 16 bits an
encoder command word (TXC). DESIGN CHOICE (safe; log entry 8): the interface a transfer comes in at, not its
bits, tells the formats apart, so two bytes are read as a command of the encoder. -/
def tableTransfer (nbits w : Nat) : Option Transfer :=
  if nbits ≤ 1 then (if w = 1 then some .resetIn else none)
  else if nbits ≤ 8 then (if w < 256 then some (.rxIn (BitVec.ofNat 8 w)) else none)
  else if nbits = 9 then (if w < 512 then some (.crcOp (BitVec.ofNat 9 w)) else none)
  else if nbits ≤ 16 then (if w < 1024 then some (.txCmd (BitVec.ofNat 10 w)) else none)
  else none

/-- The operation of an opcode-table word. A raw byte is read in `Receiving`, the state in which the most
rows of R38 have a word of their own (log entry 8). -/
def decodeTableWord (nbits w : Nat) : Option Instr := (tableTransfer nbits w).map (decode .receiving)

end Sys2Proof
end

