-- ==== Sys2Proof/Machine/State.lean ====
section
/-! DEFINITION. The state of the block as plain data: the seven items of 10_state R10, the parameters of
00_scope R7, what stands at the interfaces of R21, and the schedule. -/

namespace Sys2Proof.Machine

/-- The receive buffer's bytes (20_memory R23): pairs of an index and a byte, indices strictly rising, no
index twice. An index that is not listed has no value (10_state R13; DESIGN CHOICE, safe; log entry 4). -/
abbrev Memory := List Host.Cell

/-- The whole state. The first seven fields after `cfg` are the seven items of 10_state R10. -/
structure State where
  /-- `CRC_INIT` and `BUF_CAP`; no operation changes them (R7). -/
  cfg : Config
  /-- `rx_state` (R12). -/
  rxState : RxState
  /-- `rx_buf` (R13). -/
  rxBuf : Memory
  /-- `rx_len` (R13): the number of valid bytes. -/
  rxLen : Nat
  /-- `rx_crc` (R14). -/
  rxCrc : Byte
  /-- `tx_state` (R15). -/
  txState : TxState
  /-- `tx_crc` (R16). -/
  txCrc : Byte
  /-- `acc` of a CRC8 unit taken on its own (R11). -/
  acc : Byte
  /-- `rx_in` (R21): the raw bytes presented and not yet consumed, first to arrive first. -/
  rxIn : List Byte
  /-- `tx_cmd` (R21): the command words presented and not yet accepted. -/
  txCmd : List TxWord
  /-- The command words presented to the CRC8 unit taken on its own (R21). -/
  crcOp : List CrcWord
  /-- The `reset` input is asserted (R21, R95). -/
  resetIn : Bool
  /-- `rx_pkt` (R21): every packet delivered, in order. -/
  rxPkt : List (List Byte)
  /-- The consumer has not finished with the packet last delivered (R76, R99). -/
  pktPending : Bool
  /-- `tx_out` (R21): every byte emitted, in order. -/
  txOut : List Byte
  /-- How many emitted bytes the sink has not yet taken (R63, R103). -/
  txUntaken : Nat
  /-- Who moves next, and then; the model's own field (20_memory R32; DESIGN CHOICE, safe; log
  entry 5). -/
  turns : List Turn
  deriving DecidableEq, Repr

/-- Why the machine stops with a fault. Neither is reached from a state that meets `State.Inv`. -/
inductive Fault where
  /-- Raised by a buffer write at an index the address space does not have (20_memory R23). Safe. -/
  | bufIndexOutside
  /-- Raised by reading a buffer index that holds no value (10_state R13). Safe. -/
  | bufByteUndefined
  deriving DecidableEq, Repr

/-- Why an operation has no step. -/
inductive Refusal where
  /-- Raised by exec's arm of an instruction without a meaning; no arm is left so. Safe. -/
  | notModelled (mnemonic : String)
  /-- Raised by the meaning of an RX operation in a state, or with a raw byte, that does not select it
  (30_encoding R38): no step of the block performs it there, and `step` never asks for it. Safe. -/
  | rxNotSelected
  /-- Raised by TX.OPEN in `TxActive` and by TX.BYTE and TX.CLOSE in `TxIdle` (41_frame_encoder R59). Safe. -/
  | txOutOfSequence
  /-- Raised by TX.RESERVED, the reserved command code 00 (60_exceptions R91). Safe. -/
  | txReservedCode
  deriving DecidableEq, Repr

/-- What a step finds to do: an operation to perform in a state, or nothing but to go on in a state. -/
inductive Fetched where
  /-- The operation `i` is taken, and performed in `s`. -/
  | run (i : Instr) (s : State)
  /-- No unit takes an operation; the machine goes on in `s`. -/
  | wait (s : State)
  deriving DecidableEq, Repr

/-- The block built with the parameters `c`, right after reset (10_state R22, 70_reset_and_hazards R95), with
nothing presented, delivered or emitted yet (DESIGN CHOICE, unsafe; log entry 3). -/
def State.resetWith (c : Config) : State where
  cfg := c
  rxState := .idle
  rxBuf := []
  rxLen := 0
  rxCrc := c.crcInit
  txState := .idle
  txCrc := c.crcInit
  acc := c.crcInit
  rxIn := []
  txCmd := []
  crcOp := []
  resetIn := false
  rxPkt := []
  pktPending := false
  txOut := []
  txUntaken := 0
  turns := []

/-- The block with the default parameters right after reset. -/
def State.reset : State := State.resetWith Config.default

end Sys2Proof.Machine
end

