-- ==== Sys2Proof/Machine/Ops.lean ====
section
/-! DEFINITION. The named operations over the buffer, the registers and the interfaces, and the shared
ways an operation ends: a dropped frame, a refusal. -/

namespace Sys2Proof.Machine

/-- The byte an index holds, if it holds one. -/
def Memory.read : Memory → Nat → Option Byte
  | [], _ => none
  | (k, v) :: rest, a => if k = a then some v else Memory.read rest a

/-- Write one byte, keeping the indices rising. -/
def Memory.write : Memory → Nat → Byte → Memory
  | [], a, v => [(a, v)]
  | (k, w) :: rest, a, v =>
    if a < k then (a, v) :: (k, w) :: rest
    else if a = k then (a, v) :: rest
    else (k, w) :: Memory.write rest a v

/-- The canonical form: indices strictly rising. No listed entry can equal an unlisted one, which has no
value. -/
abbrev Memory.wf (m : Memory) : Prop := m.Pairwise fun c d => c.1 < d.1

/-- A count `n` of buffer bytes is within `BUF_CAP` (00_scope R7). -/
def fitsCap (c : Config) (n : Nat) : Bool :=
  match c.bufCap with
  | none => true
  | some k => decide (n ≤ k)

/-- An index of the one address space, 0 to `BUF_CAP - 1` (20_memory R23). -/
def inSpace (c : Config) (a : Nat) : Bool := fitsCap c (a + 1)

/-- `MemRead(i, 1)`, defined for `0 <= i < rx_len` (00_scope section 9). -/
def memRead (s : State) (i : Nat) : Option Byte := if i < s.rxLen then s.rxBuf.read i else none

/-- `MemWrite(i, 1, v)` (00_scope section 9); `none` outside the address space. -/
def memWrite (i : Nat) (v : Byte) (s : State) : Option State :=
  if inSpace s.cfg i then some { s with rxBuf := s.rxBuf.write i v } else none

/-- `BufAppend(v)`: `MemWrite(rx_len, 1, v)`, then `rx_len <- rx_len + 1` (20_memory R24). -/
def bufAppend (v : Byte) (s : State) : Option State :=
  (memWrite s.rxLen v s).map fun t => { t with rxLen := t.rxLen + 1 }

/-- `BufClear()`: `rx_len <- 0`; the bytes are not erased (20_memory R24). -/
def bufClear (s : State) : State := { s with rxLen := 0 }

/-- The bytes `rx_buf[0..n-1]`, in order; `none` where one of them has no value. -/
def bufBytes (s : State) : Nat → Option (List Byte)
  | 0 => some []
  | n + 1 =>
    match bufBytes s n, memRead s n with
    | some p, some v => some (p ++ [v])
    | _, _ => none

/-- CRC.CLEAR on `rx_crc` (40_crc8 R47). -/
def rxCrcClear (s : State) : State := { s with rxCrc := s.cfg.crcInit }

/-- CRC.CLEAR on `tx_crc` (R47). -/
def txCrcClear (s : State) : State := { s with txCrc := s.cfg.crcInit }

/-- Open a fresh frame: buffer and accumulator cleared, `rx_state <- Receiving` (42_frame_receiver R66). -/
def openFrame (s : State) : State := { rxCrcClear (bufClear s) with rxState := .receiving }

/-- Leave the frame: `rx_state <- Idle ; rx_len <- 0 ; rx_crc <- CRC_INIT` (42_frame_receiver R68). -/
def toIdle (s : State) : State := { rxCrcClear (bufClear s) with rxState := .idle }

/-- `raise Drop(cause)`, the block's one kind of exception: silent, it saves nothing and goes to `Idle`
(60_exceptions R84, R85 to R88 and R90), but that a frame abandoned at a start marker gives way to a fresh
one (R88). There is no return operation (R90). -/
def raiseDrop (cause : DropCause) (s : State) : State :=
  match cause with
  | .framingError => toIdle s
  | .emptyFrame => toIdle s
  | .protocolViolation => toIdle s
  | .overflow => toIdle s
  | .abandoned => openFrame s

/-- `deliver(p)`: the packet is handed to the consumer, who now has it to finish with (42_frame_receiver
R76). -/
def deliver (p : List Byte) (s : State) : State := { s with rxPkt := s.rxPkt ++ [p], pktPending := true }

/-- `emit` of the bytes `bs` in order; each waits for the sink to take it (41_frame_encoder R63). -/
def emit (bs : List Byte) (s : State) : State :=
  { s with txOut := s.txOut ++ bs, txUntaken := s.txUntaken + bs.length }

/-- An RX operation is performed where `rx_state` and the raw byte select it (30_encoding R38), and nowhere
else. DEDUCED (safe; log entry 9): `step` asks for it only there. -/
def whenSelected (selected : Bool) (k : Host.Outcome State Fault Refusal) : Host.Outcome State Fault Refusal :=
  if selected then k else .refused .rxNotSelected

/-- A TX operation whose condition on `tx_state` does not hold is refused (41_frame_encoder R59). -/
def whenTx (st : TxState) (s t : State) : Host.Outcome State Fault Refusal :=
  if s.txState = st then .next t else .refused .txOutOfSequence

end Sys2Proof.Machine
end

