-- ==== Sys2Proof/Machine/Crc.lean ====
section
/-! DEFINITION. The commands of a CRC8 unit taken on its own (40_crc8 R47 and R48). -/

namespace Sys2Proof.Machine

/-- CRC.CLEAR (R47): `acc <- CRC_INIT`. -/
def execCrcClear (s : State) : Host.Outcome State Fault Refusal := .next { s with acc := s.cfg.crcInit }

/-- CRC.UPDATE (R48): `acc <- crc8_update(acc, b)`. -/
def execCrcUpdate (b : Byte) (s : State) : Host.Outcome State Fault Refusal :=
  .next { s with acc := crc8Update s.acc b }

end Sys2Proof.Machine
end

