-- ==== Sys2Proof/Machine/Reset.lean ====
section
/-! DEFINITION. RESET (70_reset_and_hazards R95). -/

namespace Sys2Proof.Machine

/-- RESET (R95): every register to its value of 10_state R22. The buffer's contents, what has been delivered
and emitted, and what the outside presents are not written (R95, R97; DEDUCED, unsafe; log entry 7). -/
def execReset (s : State) : Host.Outcome State Fault Refusal :=
  .next { txCrcClear (toIdle s) with txState := .idle, acc := s.cfg.crcInit }

end Sys2Proof.Machine
end

