-- ==== Sys2Proof/Machine/Flags.lean ====
section
/-! DEFINITION. The four conditions that are computed and never stored (10_state R17), and the causes of a
drop they give (60_exceptions R83 and R89). -/

namespace Sys2Proof.Machine

/-- `residue_zero` (R17). -/
def residueZero (s : State) : Bool := s.rxCrc == 0x00

/-- `buf_nonempty` (R17). -/
def bufNonempty (s : State) : Bool := decide (1 ≤ s.rxLen)

/-- `hdr_ok`: `rx_len - 1 >= HDR_LEN`, read only where `rx_len >= 1` (R17, 40_crc8 R52). -/
def hdrOk (s : State) : Bool := decide (hdrLen ≤ s.rxLen - 1)

/-- `buf_full`: `rx_len == BUF_CAP`, never true when `BUF_CAP` is unbounded (R17). -/
def bufFull (s : State) : Bool :=
  match s.cfg.bufCap with
  | none => false
  | some k => s.rxLen == k

/-- The cause RX.END raises, if any: residue first, then empty buffer, then header length (R83, R89). -/
def endCause (s : State) : Option DropCause :=
  if !residueZero s then some .framingError
  else if !bufNonempty s then some .emptyFrame
  else if !hdrOk s then some .protocolViolation
  else none

/-- The cause RX.START raises, if any: a frame was open (R83). -/
def startCause (s : State) : Option DropCause := if s.rxState = .idle then none else some .abandoned

/-- The cause RX.DATA and RX.XDATA raise, if any: the buffer is full (R83). -/
def appendCause (s : State) : Option DropCause := if bufFull s then some .overflow else none

end Sys2Proof.Machine
end

