-- ==== Sys2Proof/Machine/Operands.lean ====
section
/-! DEFINITION. The two operand forms of the receiver: the decoded byte of a raw byte (30_encoding R39). -/

namespace Sys2Proof.Machine

/-- RX.DATA's operand: the decoded byte is the raw byte (R39). -/
def literalOperand (b : Byte) : Byte := b

/-- RX.XDATA's operand: the decoded byte is the complement of the raw byte (R39). -/
def escapedOperand (b : Byte) : Byte := complement b

end Sys2Proof.Machine
end

