-- ==== Sys2Proof/Machine/Rx.lean ====
section
/-! DEFINITION. The six operations of the frame receiver (42_frame_receiver R66 to R72). -/

namespace Sys2Proof.Machine

/-- RX.START (R66): in every state; an open frame is Abandoned (R88). -/
def execRxStart (s : State) : Host.Outcome State Fault Refusal :=
  match startCause s with
  | some c => .next (raiseDrop c s)
  | none => .next (openFrame s)

/-- RX.IGNORE (R67): nothing changes. -/
def execRxIgnore (s : State) : Host.Outcome State Fault Refusal := whenSelected (s.rxState == .idle) (.next s)

/-- RX.END (R68): drop, or deliver the buffer without its last byte (R74); to `Idle` in every case. -/
def execRxEnd (s : State) : Host.Outcome State Fault Refusal :=
  whenSelected (s.rxState == .receiving)
    (match endCause s with
    | some c => .next (raiseDrop c s)
    | none =>
      match bufBytes s (s.rxLen - 1) with
      | some p => .next (toIdle (deliver p s))
      | none => .fault .bufByteUndefined)

/-- RX.ESC (R69): `rx_state <- Escaping`. -/
def execRxEsc (s : State) : Host.Outcome State Fault Refusal :=
  whenSelected (s.rxState == .receiving) (.next { s with rxState := .escaping })

/-- What RX.DATA and RX.XDATA do with the decoded byte `v`: Overflow when the buffer is full (R72), else
append and accumulate it and be in `Receiving` (R70, R71). -/
def acceptByte (v : Byte) (s : State) : Host.Outcome State Fault Refusal :=
  match appendCause s with
  | some c => .next (raiseDrop c s)
  | none =>
    match bufAppend v s with
    | some t => .next { t with rxCrc := crc8Update t.rxCrc v, rxState := .receiving }
    | none => .fault .bufIndexOutside

/-- RX.XDATA (R70). -/
def execRxXdata (b : Byte) (s : State) : Host.Outcome State Fault Refusal :=
  whenSelected (s.rxState == .escaping && b != sof) (acceptByte (escapedOperand b) s)

/-- RX.DATA (R71). -/
def execRxData (b : Byte) (s : State) : Host.Outcome State Fault Refusal :=
  whenSelected (s.rxState == .receiving && !reserved b) (acceptByte (literalOperand b) s)

end Sys2Proof.Machine
end

