-- ==== Sys2Proof/Machine/Tx.lean ====
section
/-! DEFINITION. The commands of the frame encoder (41_frame_encoder R56 to R59). -/

namespace Sys2Proof.Machine

/-- TX.RESERVED: the reserved command code has no step (60_exceptions R91). -/
def execTxReserved (_s : State) : Host.Outcome State Fault Refusal := .refused .txReservedCode

/-- TX.OPEN (R56): `emit(0x55); tx_crc <- CRC_INIT; tx_state <- TxActive`. -/
def execTxOpen (s : State) : Host.Outcome State Fault Refusal :=
  whenTx .idle s { txCrcClear (emit [sof] s) with txState := .active }

/-- TX.BYTE (R57): emit the escaped byte and accumulate the original one. -/
def execTxByte (b : Byte) (s : State) : Host.Outcome State Fault Refusal :=
  whenTx .active s { emit (esc b) s with txCrc := crc8Update s.txCrc b }

/-- TX.CLOSE (R58): emit the escaped checksum and the end marker; `tx_crc <- CRC_INIT; tx_state <- TxIdle`. -/
def execTxClose (s : State) : Host.Outcome State Fault Refusal :=
  whenTx .active s { txCrcClear (emit (esc s.txCrc ++ [eof]) s) with txState := .idle }

end Sys2Proof.Machine
end

