-- ==== Sys2Proof/Machine/Dispatch.lean ====
section
/-! DEFINITION. The meaning of each operation, one arm per constructor of Instr. -/

namespace Sys2Proof.Machine

def exec (i : Instr) (s : State) : Host.Outcome State Fault Refusal :=
  match i with
  | .rxStart => Sys2Proof.Machine.execRxStart s
  | .rxIgnore => Sys2Proof.Machine.execRxIgnore s
  | .rxEnd => Sys2Proof.Machine.execRxEnd s
  | .rxEsc => Sys2Proof.Machine.execRxEsc s
  | .rxXdata b => Sys2Proof.Machine.execRxXdata b s
  | .rxData b => Sys2Proof.Machine.execRxData b s
  | .txReserved => Sys2Proof.Machine.execTxReserved s
  | .txOpen => Sys2Proof.Machine.execTxOpen s
  | .txByte b => Sys2Proof.Machine.execTxByte b s
  | .txClose => Sys2Proof.Machine.execTxClose s
  | .crcClear => Sys2Proof.Machine.execCrcClear s
  | .crcUpdate b => Sys2Proof.Machine.execCrcUpdate b s
  | .reset => Sys2Proof.Machine.execReset s

end Sys2Proof.Machine
end

