-- ==== Sys2Proof/Machine/Fetch.lean ====
section
/-! DEFINITION. What the next step does: which input is taken, by whom, and when a unit waits (20_memory R31
and R32, 70_reset_and_hazards R95, R99 and R103). -/

namespace Sys2Proof.Machine

/-- RX's turn: the next raw byte is taken unless a delivered packet is pending (R76, R99; DEDUCED, safe; log
entry 10). -/
def fetchRx (s : State) : Fetched :=
  match s.rxIn with
  | [] => .wait s
  | b :: rest => if s.pktPending then .wait s else .run (decodeRx s.rxState b) { s with rxIn := rest }

/-- TX's turn: the next command is taken unless the sink has emitted bytes still to take (R63, R103; DEDUCED,
safe; log entry 10). -/
def fetchTx (s : State) : Fetched :=
  match s.txCmd with
  | [] => .wait s
  | w :: rest => if s.txUntaken = 0 then .run (decodeTx w) { s with txCmd := rest } else .wait s

/-- The turn of the CRC8 unit taken on its own. -/
def fetchCrc (s : State) : Fetched :=
  match s.crcOp with
  | [] => .wait s
  | w :: rest => .run (decodeCrc w) { s with crcOp := rest }

/-- What happens at a turn. The consumer finishes with its packet, the sink takes one byte, the reset driver
asserts the reset input (R107). -/
def takeTurn (t : Turn) (s : State) : Fetched :=
  match t with
  | .rx => fetchRx s
  | .tx => fetchTx s
  | .crc => fetchCrc s
  | .consumer => .wait { s with pktPending := false }
  | .sink => .wait { s with txUntaken := s.txUntaken - 1 }
  | .resetDriver => .wait { s with resetIn := true }

/-- What the next step does. RESET has priority over any operation presented at the same time (R95), which
stays presented (DEDUCED, safe; log entry 6); the block waits where the schedule has no turn (R77). -/
def fetch (s : State) : Fetched :=
  if s.resetIn then .run .reset { s with resetIn := false }
  else
    match s.turns with
    | [] => .wait s
    | t :: rest => takeTurn t { s with turns := rest }

/-- `s` with a transfer presented so that the very next step performs its operation: it is the first of its
input, its unit has the turn, nothing that this unit would wait for is outstanding, and the unit is in the state
that the row of spec/opcode_table.json names: `Receiving` for a raw byte other than the start marker, as
`decodeTableWord` reads it, `TxIdle` for OPEN, `TxActive` for BYTE and CLOSE (DESIGN CHOICE, safe; log entry
8). -/
def presentNext (t : Transfer) (s : State) : State :=
  match t with
  | .rxIn b =>
    { s with rxIn := b :: s.rxIn, turns := .rx :: s.turns, resetIn := false, pktPending := false,
             rxState := if b = sof then s.rxState else .receiving }
  | .txCmd w =>
    { s with txCmd := w :: s.txCmd, turns := .tx :: s.turns, resetIn := false, txUntaken := 0,
             txState := if decodeTx w = .txReserved then s.txState
                        else if decodeTx w = .txOpen then .idle else .active }
  | .crcOp w => { s with crcOp := w :: s.crcOp, turns := .crc :: s.turns, resetIn := false }
  | .resetIn => { s with resetIn := true }

/-- `presentNext` of the transfer an opcode-table word stands for; `s` itself for a word that is none. -/
def presentTableWord (s : State) (nbits w : Nat) : State :=
  match tableTransfer nbits w with
  | some t => presentNext t s
  | none => s

end Sys2Proof.Machine
end

