-- ==== Sys2Proof/Machine/Step.lean ====
section
/-! DEFINITION. One step of the machine. -/

namespace Sys2Proof.Machine

/-- One step: the operation that is taken is performed, or the machine goes on without one. A refused encoder
command has no step (60_exceptions R91; DESIGN CHOICE for the other units, safe; log entry 13). -/
def step (s : State) : Host.Outcome State Fault Refusal :=
  match fetch s with
  | .run i t => exec i t
  | .wait t => .next t

/-- `s` with the opcode-table word `w` placed so that the very next step takes it. -/
def State.withFetchWord (s : State) (nbits w : Nat) : State := presentTableWord s nbits w

end Sys2Proof.Machine
end

