-- ==== Sys2Proof/Machine/Run.lean ====
section
/-! DEFINITION. A run, its end and its observation (70_reset_and_hazards R108), and the duties of the packet
consumer and the byte sink on a run (R107). -/

namespace Sys2Proof.Machine

/-- The encoder command whose turn it is is refused (41_frame_encoder R59, 60_exceptions R91). -/
def commandRefused (s : State) : Prop := step s = .refused .txOutOfSequence ∨ step s = .refused .txReservedCode

/-- TX's turn has passed and the refused command still stands at `tx_cmd`: its producer is stuck (R91). -/
def holdRefused (s : State) : State := { s with turns := s.turns.tail }

/-- TX's turn has passed and the refused command no longer stands at `tx_cmd`: the run is done with it (R108). -/
def withdrawRefused (s : State) : State := { s with turns := s.turns.tail, txCmd := s.txCmd.tail }

/-- One move of a run: a step, or, where an encoder command is refused and so has no step, TX's turn passes
with nothing accepted, changed or emitted (R59), and the producer holds the command or withdraws it. DEDUCED
(safe; log entry 15): the spec says which of the two neither way, so a run may do either. -/
def runMove (s t : State) : Prop :=
  step s = .next t ∨ (commandRefused s ∧ (t = holdRefused s ∨ t = withdrawRefused s))

/-- Finitely many moves lead from the start state `s` to `t`; the raw bytes, the commands and the schedule of
the run stand in `s` (R108). -/
def run (s t : State) : Prop := Relation.ReflTransGen runMove s t

/-- Every raw byte has been consumed, every command performed or refused, and no reset is outstanding (R108). -/
def inputsConsumed (s : State) : Prop := s.rxIn = [] ∧ s.txCmd = [] ∧ s.crcOp = [] ∧ s.resetIn = false

/-- The consumer has finished with every delivered packet (R108): RX takes no byte before it has (R99). -/
def consumerFinished (s : State) : Prop := s.pktPending = false

/-- The emitted bytes the sink has taken: the first ones, in order and unchanged (R107). -/
def sinkTaken (s : State) : List Byte := s.txOut.take (s.txOut.length - s.txUntaken)

/-- The sink has taken every emitted byte (R108). -/
def sinkTookAll (s : State) : Prop := s.txUntaken = 0

/-- The run is over (R108). A frame may be open in RX or in TX: that is no fault and no hang. -/
def runOver (s : State) : Prop := inputsConsumed s ∧ consumerFinished s ∧ sinkTookAll s

/-- What a run is observed by (R108): what has been delivered and emitted, in order, and the final values. -/
structure Observation where
  packets : List (List Byte)
  emitted : List Byte
  rxState : RxState
  /-- `rx_buf[0..rx_len-1]`; `none` only where a byte below `rx_len` has no value, which the invariant excludes. -/
  rxBytes : Option (List Byte)
  rxCrc : Byte
  txState : TxState
  txCrc : Byte
  deriving DecidableEq, Repr

/-- The observation of a run that ends in `s` (R108). -/
def observe (s : State) : Observation where
  packets := s.rxPkt
  emitted := s.txOut
  rxState := s.rxState
  rxBytes := bufBytes s s.rxLen
  rxCrc := s.rxCrc
  txState := s.txState
  txCrc := s.txCrc

/-- The packet consumer's duty on the runs from `s`, a premise for claims (R107): after any finite time it
finishes with each delivered packet. Its other duty, not to write `rx_buf`, holds of every state: its turn
writes `pktPending` alone (`takeTurn`). -/
def consumerKeepsDuty (s : State) : Prop :=
  ∀ t, run s t → t.pktPending = true → ∃ u, run t u ∧ consumerFinished u

/-- The byte sink's duty on the runs from `s`, a premise for claims (R107): after any finite time it takes every
emitted byte. That it takes them in order and unchanged is `sinkTaken`. -/
def sinkKeepsDuty (s : State) : Prop := ∀ t, run s t → t.txUntaken ≠ 0 → ∃ u, run t u ∧ sinkTookAll u

end Sys2Proof.Machine
end

