-- ==== Sys2Proof/Machine/Frame.lean ====
section
/-! DEFINITION. The wire frame of a byte sequence and the pseudo-operation that sends it (41_frame_encoder
R54, 30_encoding R44). -/

namespace Sys2Proof.Machine

/-- The loop of `Encode`: from accumulator `acc`, the escaped bytes and then the escaped checksum (R54). -/
def encodeBody : Byte → List Byte → List Byte
  | acc, [] => esc acc
  | acc, b :: rest => esc b ++ encodeBody (crc8Update acc b) rest

/-- `Encode(s)`, the wire frame (R54), with the accumulator started from `crcInit`. -/
def encodeFrame (crcInit : Byte) (s : List Byte) : List Byte := [sof] ++ encodeBody crcInit s ++ [eof]

/-- The operations `tx.frame [d0 ... dn-1]` expands to (30_encoding R44). -/
def txFrame (s : List Byte) : List Instr := [.txOpen] ++ s.map Instr.txByte ++ [.txClose]

end Sys2Proof.Machine
end

