-- ==== Sys2Proof/Safety.lean ====
section
/-! DEFINITION. The terms claims are made in: RX on a stream, sequences of operations, the invariant of
the state, what RX and TX can see of the state, and the duties of the outside agents. -/

namespace Sys2Proof.Machine

/-- `RxStep(b)`: the selected operation performed (42_frame_receiver R65). -/
def rxStep (b : Byte) (s : State) : Host.Outcome State Fault Refusal := exec (decodeRx s.rxState b) s

/-- `Decode(st, bytes)`: RX on a byte stream (R65), stopping where a step stops. -/
def rxStream : List Byte → State → Host.Outcome State Fault Refusal
  | [], s => .next s
  | b :: rest, s =>
    match rxStep b s with
    | .next t => rxStream rest t
    | .fault f => .fault f
    | .refused r => .refused r

/-- Operations one after another, stopping where one stops. -/
def execAll : List Instr → State → Host.Outcome State Fault Refusal
  | [], s => .next s
  | i :: rest, s =>
    match exec i s with
    | .next t => execAll rest t
    | .fault f => .fault f
    | .refused r => .refused r

/-- A row of the table of 30_encoding R38: the state it is for (`none` is "any"), match and mask, and the
operation it selects for a raw byte. -/
structure RxRow where
  state : Option RxState
  pattern : Byte
  mask : Byte
  operation : Byte → Instr

/-- The row matches a state and a raw byte. -/
def RxRow.takes (r : RxRow) (st : RxState) (b : Byte) : Bool :=
  (r.state == none || r.state == some st) && (b &&& r.mask == r.pattern)

/-- The six rows of R38 in order of priority. -/
def rxRows : List RxRow :=
  [ ⟨none, 0x55, 0xFF, fun _ => .rxStart⟩,
    ⟨some .idle, 0x00, 0x00, fun _ => .rxIgnore⟩,
    ⟨some .receiving, 0x5A, 0xFF, fun _ => .rxEnd⟩,
    ⟨some .receiving, 0x50, 0xFF, fun _ => .rxEsc⟩,
    ⟨some .escaping, 0x00, 0x00, .rxXdata⟩,
    ⟨some .receiving, 0x00, 0x00, .rxData⟩ ]

/-- The unit an operation belongs to. -/
def unitOf : Instr → UnitName
  | .rxStart => .rx
  | .rxIgnore => .rx
  | .rxEnd => .rx
  | .rxEsc => .rx
  | .rxXdata _ => .rx
  | .rxData _ => .rx
  | .txReserved => .tx
  | .txOpen => .tx
  | .txByte _ => .tx
  | .txClose => .tx
  | .crcClear => .crc
  | .crcUpdate _ => .crc
  | .reset => .block

/-- The operations that can store to the buffer (20_memory R24). -/
def isAppend : Instr → Bool
  | .rxXdata _ => true
  | .rxData _ => true
  | _ => false

/-- The cause of the drop an operation raises in a state, if it raises one (60_exceptions R83). A record for
reasoning, outside the state (R84). -/
def dropCause (i : Instr) (s : State) : Option DropCause :=
  match i with
  | .rxStart => startCause s
  | .rxEnd => endCause s
  | .rxXdata _ => appendCause s
  | .rxData _ => appendCause s
  | _ => none

/-- What holds of the state after any history. -/
structure State.Inv (s : State) : Prop where
  /-- `BUF_CAP` is at least 4 or unbounded (00_scope R7). -/
  cfgWf : s.cfg.wf
  /-- The buffer's canonical form. -/
  bufWf : s.rxBuf.wf
  /-- Only indices of the address space are listed (20_memory R23). -/
  bufInSpace : ∀ c ∈ s.rxBuf, inSpace s.cfg c.1 = true
  /-- `rx_len <= BUF_CAP` (10_state R13). -/
  lenFits : fitsCap s.cfg s.rxLen = true
  /-- Every byte below `rx_len` has a value (R13), and while a frame is open `rx_crc` is their CRC8 (R14). -/
  crcOfBuffer : ∃ p, bufBytes s s.rxLen = some p ∧ (s.rxState ≠ .idle → s.rxCrc = crc8From s.cfg.crcInit p)
  /-- In `Idle` the buffer is empty and the accumulator clear (R20). -/
  rxIdle : s.rxState = .idle → s.rxLen = 0 ∧ s.rxCrc = s.cfg.crcInit
  /-- In `TxIdle` the accumulator is clear (R20). -/
  txIdle : s.txState = .idle → s.txCrc = s.cfg.crcInit
  /-- Every delivered packet has a header (42_frame_receiver R75) and at most `BUF_CAP - 1` bytes (R7). -/
  packets : ∀ p ∈ s.rxPkt, hdrLen ≤ p.length ∧ fitsCap s.cfg (p.length + 1) = true
  /-- A packet is pending only after a delivery (R76). -/
  pending : s.pktPending = true → s.rxPkt ≠ []
  /-- The sink has only emitted bytes to take (41_frame_encoder R63). -/
  untaken : s.txUntaken ≤ s.txOut.length

/-- Two states RX cannot tell apart (10_state R19): the same parameters, `rx_state`, `rx_len`, `rx_crc` and the
same valid bytes. -/
structure RxSame (s t : State) : Prop where
  cfg : s.cfg = t.cfg
  rxState : s.rxState = t.rxState
  rxLen : s.rxLen = t.rxLen
  rxCrc : s.rxCrc = t.rxCrc
  bytes : ∀ i, memRead s i = memRead t i

/-- Two states TX cannot tell apart (10_state R19). -/
structure TxSame (s t : State) : Prop where
  cfg : s.cfg = t.cfg
  txState : s.txState = t.txState
  txCrc : s.txCrc = t.txCrc

/-- The frame producer's duty: commands in the order OPEN, BYTE any number of times, CLOSE, from a state of
TX on (70_reset_and_hazards R107). -/
def producerInOrder : TxState → List Instr → Bool
  | _, [] => true
  | .idle, .txOpen :: rest => producerInOrder .active rest
  | .active, .txByte _ :: rest => producerInOrder .active rest
  | .active, .txClose :: rest => producerInOrder .idle rest
  | _, _ :: _ => false

end Sys2Proof.Machine
end

