-- ==== Sys2Proof/Certificates/Slice0/Obligations.lean ====
section
/-! DEFINITION. The statements about the model, each from the spec's rules. `CRC_INIT` and `BUF_CAP` are
fields of the state, so every statement holds for every value of both (00_scope R7). Rules the spec marks as
its own decision or derivation (D<n>, derived) are cited as such in OBLIGATIONS.json. The fields `txUntaken`,
`pktPending` and `turns` are the model's own (log entries 3 and 5). -/

open Sys2Proof
open Sys2Proof.Machine

/-! ### Encodings -/

/-- Decoding the encoding of a well-formed operation gives it back, in every `rx_state` that can select it. -/
def Obligations.DecodeEncodeAgree : Prop :=
  ∀ (i : Instr) (st : RxState), i.wellFormed = true → i.selectedIn st = true → decode st (encode i) = i

/-- Whatever is presented in whatever state, decoding gives a well-formed operation of a row for that state. -/
def Obligations.DecodedOperationIsWellFormedAndSelected : Prop :=
  ∀ (st : RxState) (t : Transfer), (decode st t).wellFormed = true ∧ (decode st t).selectedIn st = true

/-- RX's decoding takes the first row of R38's table that matches, and some row always does. -/
def Obligations.RxDecodingTakesFirstMatchingRow : Prop :=
  ∀ (st : RxState) (b : Byte),
    (rxRows.find? fun r => r.takes st b).map (fun r => r.operation b) = some (decodeRx st b)

/-- Command words decode by the match and mask of their rows (R42, R43, the spec's decision D11). -/
def Obligations.CommandWordsDecodeByMask : Prop :=
  (∀ w : TxWord,
    (w &&& 0x300 = 0x000 → decodeTx w = .txReserved) ∧
    (w &&& 0x300 = 0x100 → decodeTx w = .txOpen) ∧
    (w &&& 0x300 = 0x200 → decodeTx w = .txByte (w.setWidth 8)) ∧
    (w &&& 0x300 = 0x300 → decodeTx w = .txClose)) ∧
  (∀ w : CrcWord,
    (w &&& 0x100 = 0x000 → decodeCrc w = .crcClear) ∧
    (w &&& 0x100 = 0x100 → decodeCrc w = .crcUpdate (w.setWidth 8)))

/-- Words of the spec's own tables and examples decode to what they stand for (R38, 95_test_vectors P1, P4
and P7). -/
def Obligations.SpecWordsDecode : Prop :=
  decodeRx .escaping 0x55 = .rxStart ∧ decodeRx .idle 0x5A = .rxIgnore ∧ decodeRx .receiving 0x5A = .rxEnd ∧
  decodeRx .receiving 0x50 = .rxEsc ∧ decodeRx .escaping 0xA5 = .rxXdata 0xA5 ∧
  decodeRx .escaping 0x5A = .rxXdata 0x5A ∧ decodeRx .receiving 0xD8 = .rxData 0xD8 ∧
  decodeTx 0x000 = .txReserved ∧ decodeTx 0x100 = .txOpen ∧ decodeTx 0x25A = .txByte 0x5A ∧
  decodeTx 0x300 = .txClose ∧ decodeCrc 0x000 = .crcClear ∧ decodeCrc 0x1D8 = .crcUpdate 0xD8

/-! ### The escape code and the frame -/

/-- The reserved bytes (R6) and the escape function (R35). -/
def Obligations.EscapeFunction : Prop :=
  ∀ b : Byte,
    (reserved b = true ↔ b = 0x55 ∨ b = 0x5A ∨ b = 0x50) ∧
    ((b = 0x55 ∨ b = 0x5A ∨ b = 0x50) → esc b = [0x50, b ^^^ 0xFF]) ∧
    (¬ (b = 0x55 ∨ b = 0x5A ∨ b = 0x50) → esc b = [b])

/-- The escape function has exactly three two-byte outputs, and their second byte is not reserved (R36). -/
def Obligations.EscapePairs : Prop :=
  (∀ b x y : Byte, esc b = [x, y] ↔
    x = 0x50 ∧ ((b = 0x55 ∧ y = 0xAA) ∨ (b = 0x5A ∧ y = 0xA5) ∨ (b = 0x50 ∧ y = 0xAF))) ∧
  (∀ b x y : Byte, esc b = [x, y] → reserved y = false ∧ complement y = b)

/-- The loop of `Encode` gives start marker, escaped bytes, escaped checksum, end marker (R54). -/
def Obligations.EncodeClosedForm : Prop :=
  ∀ (c : Byte) (x : List Byte),
    encodeFrame c x = [0x55] ++ x.flatMap esc ++ esc (crc8From c x) ++ [0x5A]

/-- Transparency (R61): 0x55 only first, 0x5A only last, 0x50 only before 0xAA, 0xA5 or 0xAF. -/
def Obligations.EncodeIsTransparent : Prop :=
  ∀ (c : Byte) (x : List Byte),
    (encodeFrame c x).head? = some 0x55 ∧ (encodeFrame c x).count 0x55 = 1 ∧
    (encodeFrame c x).getLast? = some 0x5A ∧ (encodeFrame c x).count 0x5A = 1 ∧
    ∀ k : Nat, (encodeFrame c x)[k]? = some 0x50 →
      (encodeFrame c x)[k + 1]? = some 0xAA ∨ (encodeFrame c x)[k + 1]? = some 0xA5 ∨
        (encodeFrame c x)[k + 1]? = some 0xAF

/-- The length of a frame and its bounds (R37, R62). -/
def Obligations.EncodeSize : Prop :=
  ∀ (c : Byte) (x : List Byte),
    (encodeFrame c x).length =
      x.length + x.countP reserved + (if reserved (crc8From c x) then 1 else 0) + 3 ∧
    x.length + 3 ≤ (encodeFrame c x).length ∧ (encodeFrame c x).length ≤ 2 * x.length + 5

/-! ### The CRC8 -/

/-- The bit-serial and the shift-register forms give the same value as the loop of R46. -/
def Obligations.CrcFormsAgree : Prop :=
  (∀ acc b : Byte, crc8UpdateSerial acc b = crc8Update acc b) ∧
  (∀ (a : Byte) (d : Bool), crcRegisterStep a d = crcBitStep a d)

/-- Only `acc XOR b` matters, and the table is linear (R51 (a), (b) and (d)). -/
def Obligations.CrcTableIsLinear : Prop :=
  (∀ acc b : Byte, crc8Update acc b = crcTable (acc ^^^ b)) ∧
  (∀ x y : Byte, crcTable (x ^^^ y) = crcTable x ^^^ crcTable y) ∧ crcTable 0x00 = 0x00 ∧
  crcTable 0x01 = 0x5E ∧ crcTable 0x02 = 0xBC ∧ crcTable 0x04 = 0x61 ∧ crcTable 0x08 = 0xC2 ∧
  crcTable 0x10 = 0x9D ∧ crcTable 0x20 = 0x23 ∧ crcTable 0x40 = 0x46 ∧ crcTable 0x80 = 0x8C

/-- The update is a bijection in each argument, and the table a permutation (R51 (c)). -/
def Obligations.CrcUpdateIsBijective : Prop :=
  Function.Bijective crcTable ∧ (∀ b : Byte, Function.Bijective fun acc => crc8Update acc b) ∧
  (∀ acc : Byte, Function.Bijective fun b => crc8Update acc b)

/-- A sequence followed by a byte has residue zero exactly when the byte is the sequence's CRC8, from every
initial value (R50). -/
def Obligations.ResidueZeroIffOwnChecksum : Prop :=
  ∀ (a c : Byte) (x : List Byte), crc8From a (x ++ [c]) = 0x00 ↔ c = crc8From a x

/-- Two sequences of one length that differ in one byte have different CRC8s (R53). -/
def Obligations.CrcDetectsOneWrongByte : Prop :=
  ∀ (a v w : Byte) (p q : List Byte), v ≠ w → crc8From a (p ++ v :: q) ≠ crc8From a (p ++ w :: q)

/-- CRC.CLEAR (R47, decision D1): `acc` takes `CRC_INIT` and nothing else changes. -/
def Obligations.CrcClearCompletes : Prop :=
  ∀ s : State, exec .crcClear s = .next { s with acc := s.cfg.crcInit }

/-- CRC.UPDATE (R48): the accumulator is updated and nothing else changes. Its word, code 1 with the byte, is the
format of R43, which is the spec's own choice (decision D11). -/
def Obligations.CrcUpdateCompletes : Prop :=
  ∀ (s : State) (b : Byte), decodeCrc (1#1 ++ b) = .crcUpdate b ∧
    exec (.crcUpdate b) s = .next { s with acc := crc8Update s.acc b }

/-! ### The frame encoder -/

/-- TX.OPEN (R56, decision D5): in `TxIdle` the start marker and a clear accumulator; in `TxActive` it is refused
(R59, decision D6). -/
def Obligations.TxOpenCompletes : Prop :=
  ∀ s : State,
    (s.txState = .idle →
      exec .txOpen s = .next { s with txOut := s.txOut ++ [0x55], txUntaken := s.txUntaken + 1,
                                      txCrc := s.cfg.crcInit, txState := .active }) ∧
    (s.txState = .active → exec .txOpen s = .refused .txOutOfSequence)

/-- TX.BYTE (R57): in `TxActive` it emits the byte, escaped when it is reserved, and accumulates the original
byte. That it is refused in `TxIdle` is R59's own choice (decision D6), its word, code 10 with the byte, is the format
of R42, the spec's own choice (decision D11), and `txUntaken` is the model's own field (log entries 3 and 10). -/
def Obligations.TxByteCompletes : Prop :=
  ∀ (s : State) (b : Byte),
    decodeTx (0b10#2 ++ b) = .txByte b ∧
    (s.txState = .active → (b = 0x55 ∨ b = 0x5A ∨ b = 0x50) →
      exec (.txByte b) s = .next { s with txOut := s.txOut ++ [0x50, b ^^^ 0xFF], txUntaken := s.txUntaken + 2,
                                          txCrc := crc8Update s.txCrc b }) ∧
    (s.txState = .active → ¬ (b = 0x55 ∨ b = 0x5A ∨ b = 0x50) →
      exec (.txByte b) s = .next { s with txOut := s.txOut ++ [b], txUntaken := s.txUntaken + 1,
                                          txCrc := crc8Update s.txCrc b }) ∧
    (s.txState = .idle → exec (.txByte b) s = .refused .txOutOfSequence)

/-- TX.CLOSE (R58, decisions D5 and D9): in `TxActive` the checksum by the same escape rule and the end marker; in
`TxIdle` it is refused (R59, decision D6). -/
def Obligations.TxCloseCompletes : Prop :=
  ∀ s : State,
    (s.txState = .active →
      exec .txClose s = .next { s with txOut := s.txOut ++ esc s.txCrc ++ [0x5A],
                                       txUntaken := s.txUntaken + (esc s.txCrc).length + 1,
                                       txCrc := s.cfg.crcInit, txState := .idle }) ∧
    (s.txState = .idle → exec .txClose s = .refused .txOutOfSequence)

/-- The reserved command code has no step in any state, whatever its data bits (R91, decision D6). -/
def Obligations.TxReservedCodeIsRefused : Prop :=
  ∀ (s : State) (d : Byte),
    decodeTx (0b00#2 ++ d) = .txReserved ∧ exec .txReserved s = .refused .txReservedCode

/-- `tx.frame x` from `TxIdle` emits exactly `Encode(x)` and returns to `TxIdle` with a clear accumulator; after
the bytes and before the close `tx_crc` is their CRC8 (R60). -/
def Obligations.TxFrameEmitsEncode : Prop :=
  ∀ (s : State) (x : List Byte), s.txState = .idle →
    execAll (txFrame x) s =
      .next { s with txOut := s.txOut ++ encodeFrame s.cfg.crcInit x,
                     txUntaken := s.txUntaken + (encodeFrame s.cfg.crcInit x).length,
                     txCrc := s.cfg.crcInit, txState := .idle } ∧
    ∃ t, execAll ([.txOpen] ++ x.map Instr.txByte) s = .next t ∧ t.txState = .active ∧
      t.txCrc = crc8From s.cfg.crcInit x

/-- A producer that keeps its duty is never refused (R107, decision D22). -/
def Obligations.ProducerInOrderIsNeverRefused : Prop :=
  ∀ (s : State) (cmds : List Instr), producerInOrder s.txState cmds = true → ∃ t, execAll cmds s = .next t

/-- What a TX operation does depends on `tx_state`, `tx_crc` and the parameters alone (R19): from states TX
cannot tell apart it completes in both, with the same bytes emitted and states TX cannot tell apart. -/
def Obligations.TxSeesOnlyItsOwnState : Prop :=
  ∀ (i : Instr) (s u t : State), unitOf i = .tx → TxSame s u → exec i s = .next t →
    ∃ t' out, exec i u = .next t' ∧ TxSame t t' ∧ t.txOut = s.txOut ++ out ∧ t'.txOut = u.txOut ++ out

/-! ### The frame receiver -/

/-- RX.START (R66): selected by 0x55 in every state; a fresh frame, whatever was in progress. -/
def Obligations.RxStartCompletes : Prop :=
  ∀ s : State, decodeRx s.rxState 0x55 = .rxStart ∧
    exec .rxStart s = .next { s with rxLen := 0, rxCrc := s.cfg.crcInit, rxState := .receiving }

/-- RX.IGNORE (R67): any byte but 0x55 in `Idle`; nothing changes. -/
def Obligations.RxIgnoreCompletes : Prop :=
  ∀ (s : State) (b : Byte), s.rxState = .idle → b ≠ 0x55 →
    decodeRx s.rxState b = .rxIgnore ∧ exec .rxIgnore s = .next s

/-- RX.END (R68, decisions D7, D9 and D14): residue zero and at least four bytes deliver the buffer without its
last byte, all else delivers nothing; `Idle` in every case. -/
def Obligations.RxEndCompletes : Prop :=
  ∀ s : State, s.rxState = .receiving →
    decodeRx s.rxState 0x5A = .rxEnd ∧
    (¬ (s.rxCrc = 0x00 ∧ 4 ≤ s.rxLen) →
      exec .rxEnd s = .next { s with rxState := .idle, rxLen := 0, rxCrc := s.cfg.crcInit }) ∧
    (∀ p, s.rxCrc = 0x00 → 4 ≤ s.rxLen → bufBytes s (s.rxLen - 1) = some p →
      exec .rxEnd s = .next { s with rxState := .idle, rxLen := 0, rxCrc := s.cfg.crcInit,
                                     rxPkt := s.rxPkt ++ [p], pktPending := true })

/-- The bytes read out are `rx_buf[0..n-1]` in order (R13, R24). -/
def Obligations.BytesReadOutAreTheBuffer : Prop :=
  ∀ (s : State) (n : Nat) (p : List Byte), n ≤ s.rxLen →
    (bufBytes s n = some p ↔ p.length = n ∧ ∀ k < n, p[k]? = s.rxBuf.read k)

/-- RX.ESC (R69): to `Escaping`, all else unchanged. -/
def Obligations.RxEscCompletes : Prop :=
  ∀ s : State, s.rxState = .receiving →
    decodeRx s.rxState 0x50 = .rxEsc ∧ exec .rxEsc s = .next { s with rxState := .escaping }

/-- RX.XDATA (R70): any byte but 0x55 in `Escaping`; the complement is appended and accumulated. What a full buffer
does is R72, the spec's own choice (decision D3). `rx_len <= BUF_CAP` is a clause of the invariant (R13). -/
def Obligations.RxXdataCompletes : Prop :=
  ∀ (s : State) (b : Byte), s.rxState = .escaping → b ≠ 0x55 → fitsCap s.cfg s.rxLen = true →
    decodeRx s.rxState b = .rxXdata b ∧
    (s.cfg.bufCap ≠ some s.rxLen →
      exec (.rxXdata b) s = .next { s with rxBuf := s.rxBuf.write s.rxLen (b ^^^ 0xFF), rxLen := s.rxLen + 1,
                                           rxCrc := crc8Update s.rxCrc (b ^^^ 0xFF), rxState := .receiving }) ∧
    (s.cfg.bufCap = some s.rxLen →
      exec (.rxXdata b) s = .next { s with rxState := .idle, rxLen := 0, rxCrc := s.cfg.crcInit })

/-- RX.DATA (R71): any byte that is not reserved in `Receiving`; it is appended and accumulated. What a full buffer
does is R72, the spec's own choice (decision D3). `rx_len <= BUF_CAP` is a clause of the invariant (R13). -/
def Obligations.RxDataCompletes : Prop :=
  ∀ (s : State) (b : Byte), s.rxState = .receiving → b ≠ 0x55 → b ≠ 0x5A → b ≠ 0x50 →
    fitsCap s.cfg s.rxLen = true →
    decodeRx s.rxState b = .rxData b ∧
    (s.cfg.bufCap ≠ some s.rxLen →
      exec (.rxData b) s = .next { s with rxBuf := s.rxBuf.write s.rxLen b, rxLen := s.rxLen + 1,
                                          rxCrc := crc8Update s.rxCrc b }) ∧
    (s.cfg.bufCap = some s.rxLen →
      exec (.rxData b) s = .next { s with rxState := .idle, rxLen := 0, rxCrc := s.cfg.crcInit })

/-- RxStep is total: from every state that meets the invariant every raw byte has a next state (R65, R77). -/
def Obligations.RxStepIsTotal : Prop := ∀ (s : State) (b : Byte), s.Inv → ∃ t, rxStep b s = .next t

/-- The causes of a drop, each with its exact condition; RX.END's are exclusive and in order, and there is none
exactly when it delivers (R83, R85 to R89, decision D14). -/
def Obligations.DropCausesExactly : Prop :=
  ∀ (s : State) (b : Byte),
    (dropCause .rxEnd s = some .framingError ↔ s.rxCrc ≠ 0x00) ∧
    (dropCause .rxEnd s = some .emptyFrame ↔ s.rxCrc = 0x00 ∧ s.rxLen = 0) ∧
    (dropCause .rxEnd s = some .protocolViolation ↔ s.rxCrc = 0x00 ∧ 1 ≤ s.rxLen ∧ s.rxLen ≤ 3) ∧
    (dropCause .rxEnd s = none ↔ s.rxCrc = 0x00 ∧ 4 ≤ s.rxLen) ∧
    (dropCause .rxStart s = some .abandoned ↔ s.rxState = .receiving ∨ s.rxState = .escaping) ∧
    (dropCause (.rxData b) s = some .overflow ↔ s.cfg.bufCap = some s.rxLen) ∧
    (dropCause (.rxXdata b) s = some .overflow ↔ s.cfg.bufCap = some s.rxLen)

/-- A drop is silent: it writes `rx_state`, `rx_len` and `rx_crc` and nothing else (R84, R85 to R88, R90). -/
def Obligations.DropIsSilent : Prop :=
  ∀ (i : Instr) (c : DropCause) (s t : State), dropCause i s = some c → exec i s = .next t →
    t = { s with rxState := if c = .abandoned then .receiving else .idle, rxLen := 0, rxCrc := s.cfg.crcInit }

/-- A step delivers exactly when R73 says, and then the buffer without its last byte. -/
def Obligations.DeliversExactlyWhen : Prop :=
  ∀ (s t : State) (b : Byte), rxStep b s = .next t →
    ((s.rxState = .receiving ∧ b = 0x5A ∧ s.rxCrc = 0x00 ∧ 4 ≤ s.rxLen) →
      ∃ p, bufBytes s (s.rxLen - 1) = some p ∧ t.rxPkt = s.rxPkt ++ [p]) ∧
    (¬ (s.rxState = .receiving ∧ b = 0x5A ∧ s.rxCrc = 0x00 ∧ 4 ≤ s.rxLen) → t.rxPkt = s.rxPkt)

/-- A packet is delivered only when its buffered frame ends in the packet's own CRC8, and it has a header (R73,
R50, R75). -/
def Obligations.DeliveredPacketHadItsOwnChecksum : Prop :=
  ∀ (s t : State) (b : Byte), s.Inv → rxStep b s = .next t → t.rxPkt ≠ s.rxPkt →
    ∃ p, t.rxPkt = s.rxPkt ++ [p] ∧ 3 ≤ p.length ∧
      bufBytes s s.rxLen = some (p ++ [crc8From s.cfg.crcInit p])

/-- In `Idle` a stream without a start marker changes nothing (R82, and the rest of an overflown frame, R72). -/
def Obligations.IdleIgnoresUntilStartMarker : Prop :=
  ∀ (s : State) (w : List Byte), s.rxState = .idle → 0x55 ∉ w → rxStream w s = .next s

/-- What a raw byte does depends on what RX can see alone (R19, R20): from states RX cannot tell apart it
completes in both, with the same packets delivered and states RX cannot tell apart. -/
def Obligations.RxSeesOnlyItsOwnState : Prop :=
  ∀ (s u t : State) (b : Byte), RxSame s u → rxStep b s = .next t →
    ∃ t' new, rxStep b u = .next t' ∧ RxSame t t' ∧ t.rxPkt = s.rxPkt ++ new ∧ t'.rxPkt = u.rxPkt ++ new

/-- Resynchronisation: what RX does with a start marker and what follows does not depend on anything before it
(R79). -/
def Obligations.StartMarkerResynchronises : Prop :=
  ∀ (s u t : State) (w : List Byte), s.cfg = u.cfg → rxStream (0x55 :: w) s = .next t →
    ∃ t' new, rxStream (0x55 :: w) u = .next t' ∧ RxSame t t' ∧
      t.rxPkt = s.rxPkt ++ new ∧ t'.rxPkt = u.rxPkt ++ new

/-- Round trip: from any state, the frame of a packet with a header that fits delivers exactly it, at the last
byte, and leaves RX in `Idle` (R78). -/
def Obligations.RoundTripDelivers : Prop :=
  ∀ (s : State) (x : List Byte), 3 ≤ x.length → fitsCap s.cfg (x.length + 1) = true →
    (∃ t, rxStream (encodeFrame s.cfg.crcInit x).dropLast s = .next t ∧ t.rxPkt = s.rxPkt) ∧
    ∃ t, rxStream (encodeFrame s.cfg.crcInit x) s = .next t ∧ t.rxPkt = s.rxPkt ++ [x] ∧ t.rxState = .idle

/-- The frame of fewer than three bytes delivers nothing and leaves RX in `Idle` (R75, R78). -/
def Obligations.ShortFrameDeliversNothing : Prop :=
  ∀ (s : State) (x : List Byte), x.length < 3 →
    ∃ t, rxStream (encodeFrame s.cfg.crcInit x) s = .next t ∧ t.rxPkt = s.rxPkt ∧ t.rxState = .idle

/-- A frame of more decoded bytes than `BUF_CAP` delivers nothing, however good its checksum (R104, D3). -/
def Obligations.LongFrameDeliversNothing : Prop :=
  ∀ (s : State) (x : List Byte) (k : Nat), s.cfg.bufCap = some k → k < x.length + 1 →
    ∃ t, rxStream (encodeFrame s.cfg.crcInit x) s = .next t ∧ t.rxPkt = s.rxPkt ∧ t.rxState = .idle

/-- A byte that need not be escaped arrives the same escaped or not, but that the pair 50 55 restarts (R80, R41,
R40). -/
def Obligations.NonCanonicalEscapeIsAccepted : Prop :=
  ∀ (s : State) (v : Byte), s.rxState = .receiving → reserved v = false →
    (v ≠ 0xAA → rxStream [0x50, v ^^^ 0xFF] s = rxStream [v] s) ∧
    (v = 0xAA → rxStream [0x50, v ^^^ 0xFF] s =
      .next { s with rxLen := 0, rxCrc := s.cfg.crcInit, rxState := .receiving })

/-- A single inverted bit in an interior wire byte of a frame is rejected unless it turns that byte into 0x55 or
0x5A (R81, conflict C1). -/
def Obligations.SingleBitErrorIsRejected : Prop :=
  ∀ (s : State) (x : List Byte) (k j : Nat) (w : Byte), 3 ≤ x.length →
    0 < k → k + 1 < (encodeFrame s.cfg.crcInit x).length → (encodeFrame s.cfg.crcInit x)[k]? = some w → j < 8 →
    w ^^^ BitVec.twoPow 8 j ≠ 0x55 → w ^^^ BitVec.twoPow 8 j ≠ 0x5A →
    ∃ t, rxStream ((encodeFrame s.cfg.crcInit x).set k (w ^^^ BitVec.twoPow 8 j)) s = .next t ∧
      t.rxPkt = s.rxPkt

/-! ### Frames: what an operation leaves unchanged -/

/-- An RX operation leaves the parameters, TX, the standalone accumulator, the inputs and the schedule
unchanged, and all but RX.END leave the packets (R10, R90). -/
def Obligations.RxOperationsFrame : Prop :=
  ∀ (i : Instr) (s t : State), unitOf i = .rx → exec i s = .next t →
    t.cfg = s.cfg ∧ t.txState = s.txState ∧ t.txCrc = s.txCrc ∧ t.acc = s.acc ∧ t.rxIn = s.rxIn ∧
    t.txCmd = s.txCmd ∧ t.crcOp = s.crcOp ∧ t.resetIn = s.resetIn ∧ t.txOut = s.txOut ∧
    t.txUntaken = s.txUntaken ∧ t.turns = s.turns ∧
    (i ≠ .rxEnd → t.rxPkt = s.rxPkt ∧ t.pktPending = s.pktPending)

/-- A TX operation leaves the parameters, RX, the standalone accumulator, the packets, the inputs and the
schedule unchanged (R10). -/
def Obligations.TxOperationsFrame : Prop :=
  ∀ (i : Instr) (s t : State), unitOf i = .tx → exec i s = .next t →
    t.cfg = s.cfg ∧ t.rxState = s.rxState ∧ t.rxBuf = s.rxBuf ∧ t.rxLen = s.rxLen ∧ t.rxCrc = s.rxCrc ∧
    t.acc = s.acc ∧ t.rxIn = s.rxIn ∧ t.txCmd = s.txCmd ∧ t.crcOp = s.crcOp ∧ t.resetIn = s.resetIn ∧
    t.rxPkt = s.rxPkt ∧ t.pktPending = s.pktPending ∧ t.turns = s.turns

/-- Every buffer byte reads as before, but the one at `rx_len` that RX.DATA or RX.XDATA appends when the buffer
is not full (R24, R95). -/
def Obligations.BufferFrame : Prop :=
  ∀ (i : Instr) (s t : State) (a : Nat), exec i s = .next t →
    (isAppend i = false ∨ s.cfg.bufCap = some s.rxLen ∨ a ≠ s.rxLen) → t.rxBuf.read a = s.rxBuf.read a

/-- Operations of different units may be performed in either order (R32). -/
def Obligations.UnitsCommute : Prop :=
  ∀ (i j : Instr) (s t u : State), unitOf i ≠ .block → unitOf j ≠ .block → unitOf i ≠ unitOf j →
    exec i s = .next t → exec j t = .next u → ∃ t', exec j s = .next t' ∧ exec i t' = .next u

/-! ### Reset and the whole machine -/

/-- RESET (R95, decisions D8 and D19): every register to its reset value, nothing else changed. -/
def Obligations.ResetCompletes : Prop :=
  ∀ s : State, exec .reset s =
    .next { s with rxState := .idle, rxLen := 0, rxCrc := s.cfg.crcInit, txState := .idle,
                   txCrc := s.cfg.crcInit, acc := s.cfg.crcInit }

/-- The state after reset meets the invariant, for every legal value of the parameters. -/
def Obligations.ResetMeetsInvariant : Prop := ∀ c : Config, c.wf → (State.resetWith c).Inv

/-- Every step keeps the invariant: the buffer's form and bounds, `rx_crc` the CRC8 of the buffer (R13, R14),
the idle values (R20), the delivered packets' lengths (R75, R7). -/
def Obligations.StepKeepsInvariant : Prop := ∀ s t : State, s.Inv → step s = .next t → t.Inv

/-- From a state that meets the invariant no step faults, and the only refusals are those of encoder commands
(R59, R91). -/
def Obligations.OnlyEncoderCommandsStop : Prop :=
  ∀ s : State, s.Inv →
    (∃ t, step s = .next t) ∨
    (s.resetIn = false ∧ s.turns.head? = some .tx ∧
      (step s = .refused .txOutOfSequence ∨ step s = .refused .txReservedCode))

/-- No step changes the parameters (R7), and what has been delivered and emitted stays so (R97). -/
def Obligations.ParametersStayAndOutputsOnlyGrow : Prop :=
  ∀ s t : State, step s = .next t → t.cfg = s.cfg ∧ s.rxPkt <+: t.rxPkt ∧ s.txOut <+: t.txOut

/-- At RX's turn, with no packet pending, a step is the selected operation on the next raw byte. -/
def Obligations.StepRunsTheRawByte : Prop :=
  ∀ (s : State) (b : Byte) (rest : List Byte) (ts : List Turn), s.resetIn = false → s.turns = .rx :: ts →
    s.rxIn = b :: rest → s.pktPending = false →
    step s = exec (decodeRx s.rxState b) { s with turns := ts, rxIn := rest }

/-- At TX's turn, with every emitted byte taken, a step is the next command; likewise the CRC8 unit's. -/
def Obligations.StepRunsTheCommand : Prop :=
  (∀ (s : State) (w : TxWord) (rest : List TxWord) (ts : List Turn), s.resetIn = false → s.turns = .tx :: ts →
    s.txCmd = w :: rest → s.txUntaken = 0 → step s = exec (decodeTx w) { s with turns := ts, txCmd := rest }) ∧
  (∀ (s : State) (w : CrcWord) (rest : List CrcWord) (ts : List Turn), s.resetIn = false → s.turns = .crc :: ts →
    s.crcOp = w :: rest → step s = exec (decodeCrc w) { s with turns := ts, crcOp := rest })

/-- RESET has priority over every operation presented at the same time (R95, U16). -/
def Obligations.ResetHasPriority : Prop :=
  ∀ s : State, s.resetIn = true → step s = exec .reset { s with resetIn := false }

/-- RX takes no byte while a packet is pending, until the consumer has finished (R99, decision D16). -/
def Obligations.ReceiverWaitsForConsumer : Prop :=
  ∀ (s : State) (ts : List Turn), s.resetIn = false →
    (s.turns = .rx :: ts → s.pktPending = true → step s = .next { s with turns := ts }) ∧
    (s.turns = .consumer :: ts → step s = .next { s with turns := ts, pktPending := false })

/-- TX takes no command while the sink has bytes to take, until it has taken them (R63, R103, decision D15). -/
def Obligations.EncoderWaitsForSink : Prop :=
  ∀ (s : State) (ts : List Turn), s.resetIn = false →
    (s.turns = .tx :: ts → s.txUntaken ≠ 0 → step s = .next { s with turns := ts }) ∧
    (s.turns = .sink :: ts → step s = .next { s with turns := ts, txUntaken := s.txUntaken - 1 })

/-- Where the schedule has no turn, or the unit whose turn it is has no input, a step only takes the turn (R77);
the reset driver's turn asserts the reset input (R107). -/
def Obligations.StepWithNothingPresented : Prop :=
  ∀ (s : State) (ts : List Turn), s.resetIn = false →
    (s.turns = [] → step s = .next s) ∧
    (s.turns = .rx :: ts → s.rxIn = [] → step s = .next { s with turns := ts }) ∧
    (s.turns = .tx :: ts → s.txCmd = [] → step s = .next { s with turns := ts }) ∧
    (s.turns = .crc :: ts → s.crcOp = [] → step s = .next { s with turns := ts }) ∧
    (s.turns = .resetDriver :: ts → step s = .next { s with turns := ts, resetIn := true })

/-- Runs (R108, R107, R32, decision D22; log entry 15). From every state that meets the invariant some schedule
brings the run to its end, refused commands among its inputs or not. Where the consumer and the sink keep their
duties, a run whose schedule is used up and whose inputs are consumed is over. Without a reset, all runs that get
over from the same registers and inputs are observed the same, whatever their schedules. -/
def Obligations.RunsGetOverAndAreObservedTheSame : Prop :=
  (∀ s : State, s.Inv → ∃ ts t, run { s with turns := ts } t ∧ runOver t) ∧
  (∀ s t : State, consumerKeepsDuty s → sinkKeepsDuty s → run s t → t.turns = [] → inputsConsumed t → runOver t) ∧
  (∀ (s t u : State) (ts us : List Turn), s.resetIn = false → .resetDriver ∉ ts → .resetDriver ∉ us →
    run { s with turns := ts } t → run { s with turns := us } u → runOver t → runOver u → observe t = observe u)
end

