-- ==== Sys2Proof/Laws/Crc8.lean ====
section
/-! SUPPORT. The CRC8 of a sequence taken apart, and the escape code by cases. -/

namespace Sys2Proof.Machine

@[simp] theorem crc8From_nil (a : Byte) : crc8From a [] = a := rfl

@[simp] theorem crc8From_cons (a b : Byte) (s : List Byte) :
    crc8From a (b :: s) = crc8From (crc8Update a b) s := rfl

theorem crc8From_append (a : Byte) (s t : List Byte) : crc8From a (s ++ t) = crc8From (crc8From a s) t :=
  List.foldl_append

theorem crc8From_snoc (a b : Byte) (s : List Byte) : crc8From a (s ++ [b]) = crc8Update (crc8From a s) b :=
  crc8From_append a s [b]

theorem reserved_iff (b : Byte) : reserved b = true ↔ b = sof ∨ b = eof ∨ b = escByte := by
  simp [reserved, or_assoc]

theorem esc_of_reserved {b : Byte} (h : reserved b = true) : esc b = [escByte, complement b] := by
  simp [esc, h]

theorem esc_of_not_reserved {b : Byte} (h : reserved b = false) : esc b = [b] := by
  simp [esc, h]

theorem encodeBody_nil (acc : Byte) : encodeBody acc [] = esc acc := rfl

theorem encodeBody_cons (acc b : Byte) (s : List Byte) :
    encodeBody acc (b :: s) = esc b ++ encodeBody (crc8Update acc b) s := rfl

end Sys2Proof.Machine
end

