-- ==== Sys2Proof/Laws/Decode.lean ====
section
/-! SUPPORT. The receiver's decoding by cases, one lemma per row of 30_encoding R38. -/

namespace Sys2Proof

open Machine

@[simp] theorem decodeRx_sof (st : RxState) : decodeRx st sof = .rxStart := by simp [decodeRx]

theorem decodeRx_idle {b : Byte} (h : b ≠ sof) : decodeRx .idle b = .rxIgnore := by simp [decodeRx, h]

@[simp] theorem decodeRx_eof : decodeRx .receiving eof = .rxEnd := by decide

@[simp] theorem decodeRx_esc : decodeRx .receiving escByte = .rxEsc := by decide

theorem decodeRx_escaping {b : Byte} (h : b ≠ sof) : decodeRx .escaping b = .rxXdata b := by
  simp [decodeRx, h]

theorem decodeRx_literal {b : Byte} (h : reserved b = false) : decodeRx .receiving b = .rxData b := by
  simp only [reserved, Bool.or_eq_false_iff, beq_eq_false_iff_ne] at h
  simp [decodeRx, h]

end Sys2Proof
end

