-- ==== Sys2Proof/Laws/State.lean ====
section
/-! SUPPORT. What each named operation over the state leaves in each field: one lemma per field per update. -/

namespace Sys2Proof.Machine

@[simp] theorem rxCrcClear_cfg (s : State) : (rxCrcClear s).cfg = s.cfg := rfl
@[simp] theorem rxCrcClear_rxState (s : State) : (rxCrcClear s).rxState = s.rxState := rfl
@[simp] theorem rxCrcClear_rxBuf (s : State) : (rxCrcClear s).rxBuf = s.rxBuf := rfl
@[simp] theorem rxCrcClear_rxLen (s : State) : (rxCrcClear s).rxLen = s.rxLen := rfl
@[simp] theorem rxCrcClear_rxCrc (s : State) : (rxCrcClear s).rxCrc = s.cfg.crcInit := rfl
@[simp] theorem rxCrcClear_txState (s : State) : (rxCrcClear s).txState = s.txState := rfl
@[simp] theorem rxCrcClear_txCrc (s : State) : (rxCrcClear s).txCrc = s.txCrc := rfl
@[simp] theorem rxCrcClear_acc (s : State) : (rxCrcClear s).acc = s.acc := rfl
@[simp] theorem rxCrcClear_rxIn (s : State) : (rxCrcClear s).rxIn = s.rxIn := rfl
@[simp] theorem rxCrcClear_txCmd (s : State) : (rxCrcClear s).txCmd = s.txCmd := rfl
@[simp] theorem rxCrcClear_crcOp (s : State) : (rxCrcClear s).crcOp = s.crcOp := rfl
@[simp] theorem rxCrcClear_resetIn (s : State) : (rxCrcClear s).resetIn = s.resetIn := rfl
@[simp] theorem rxCrcClear_rxPkt (s : State) : (rxCrcClear s).rxPkt = s.rxPkt := rfl
@[simp] theorem rxCrcClear_pktPending (s : State) : (rxCrcClear s).pktPending = s.pktPending := rfl
@[simp] theorem rxCrcClear_txOut (s : State) : (rxCrcClear s).txOut = s.txOut := rfl
@[simp] theorem rxCrcClear_txUntaken (s : State) : (rxCrcClear s).txUntaken = s.txUntaken := rfl
@[simp] theorem rxCrcClear_turns (s : State) : (rxCrcClear s).turns = s.turns := rfl

@[simp] theorem txCrcClear_cfg (s : State) : (txCrcClear s).cfg = s.cfg := rfl
@[simp] theorem txCrcClear_rxState (s : State) : (txCrcClear s).rxState = s.rxState := rfl
@[simp] theorem txCrcClear_rxBuf (s : State) : (txCrcClear s).rxBuf = s.rxBuf := rfl
@[simp] theorem txCrcClear_rxLen (s : State) : (txCrcClear s).rxLen = s.rxLen := rfl
@[simp] theorem txCrcClear_rxCrc (s : State) : (txCrcClear s).rxCrc = s.rxCrc := rfl
@[simp] theorem txCrcClear_txState (s : State) : (txCrcClear s).txState = s.txState := rfl
@[simp] theorem txCrcClear_txCrc (s : State) : (txCrcClear s).txCrc = s.cfg.crcInit := rfl
@[simp] theorem txCrcClear_acc (s : State) : (txCrcClear s).acc = s.acc := rfl
@[simp] theorem txCrcClear_rxIn (s : State) : (txCrcClear s).rxIn = s.rxIn := rfl
@[simp] theorem txCrcClear_txCmd (s : State) : (txCrcClear s).txCmd = s.txCmd := rfl
@[simp] theorem txCrcClear_crcOp (s : State) : (txCrcClear s).crcOp = s.crcOp := rfl
@[simp] theorem txCrcClear_resetIn (s : State) : (txCrcClear s).resetIn = s.resetIn := rfl
@[simp] theorem txCrcClear_rxPkt (s : State) : (txCrcClear s).rxPkt = s.rxPkt := rfl
@[simp] theorem txCrcClear_pktPending (s : State) : (txCrcClear s).pktPending = s.pktPending := rfl
@[simp] theorem txCrcClear_txOut (s : State) : (txCrcClear s).txOut = s.txOut := rfl
@[simp] theorem txCrcClear_txUntaken (s : State) : (txCrcClear s).txUntaken = s.txUntaken := rfl
@[simp] theorem txCrcClear_turns (s : State) : (txCrcClear s).turns = s.turns := rfl

@[simp] theorem bufClear_cfg (s : State) : (bufClear s).cfg = s.cfg := rfl
@[simp] theorem bufClear_rxState (s : State) : (bufClear s).rxState = s.rxState := rfl
@[simp] theorem bufClear_rxBuf (s : State) : (bufClear s).rxBuf = s.rxBuf := rfl
@[simp] theorem bufClear_rxLen (s : State) : (bufClear s).rxLen = 0 := rfl
@[simp] theorem bufClear_rxCrc (s : State) : (bufClear s).rxCrc = s.rxCrc := rfl
@[simp] theorem bufClear_txState (s : State) : (bufClear s).txState = s.txState := rfl
@[simp] theorem bufClear_txCrc (s : State) : (bufClear s).txCrc = s.txCrc := rfl
@[simp] theorem bufClear_acc (s : State) : (bufClear s).acc = s.acc := rfl
@[simp] theorem bufClear_rxIn (s : State) : (bufClear s).rxIn = s.rxIn := rfl
@[simp] theorem bufClear_txCmd (s : State) : (bufClear s).txCmd = s.txCmd := rfl
@[simp] theorem bufClear_crcOp (s : State) : (bufClear s).crcOp = s.crcOp := rfl
@[simp] theorem bufClear_resetIn (s : State) : (bufClear s).resetIn = s.resetIn := rfl
@[simp] theorem bufClear_rxPkt (s : State) : (bufClear s).rxPkt = s.rxPkt := rfl
@[simp] theorem bufClear_pktPending (s : State) : (bufClear s).pktPending = s.pktPending := rfl
@[simp] theorem bufClear_txOut (s : State) : (bufClear s).txOut = s.txOut := rfl
@[simp] theorem bufClear_txUntaken (s : State) : (bufClear s).txUntaken = s.txUntaken := rfl
@[simp] theorem bufClear_turns (s : State) : (bufClear s).turns = s.turns := rfl

@[simp] theorem openFrame_cfg (s : State) : (openFrame s).cfg = s.cfg := rfl
@[simp] theorem openFrame_rxState (s : State) : (openFrame s).rxState = .receiving := rfl
@[simp] theorem openFrame_rxBuf (s : State) : (openFrame s).rxBuf = s.rxBuf := rfl
@[simp] theorem openFrame_rxLen (s : State) : (openFrame s).rxLen = 0 := rfl
@[simp] theorem openFrame_rxCrc (s : State) : (openFrame s).rxCrc = s.cfg.crcInit := rfl
@[simp] theorem openFrame_txState (s : State) : (openFrame s).txState = s.txState := rfl
@[simp] theorem openFrame_txCrc (s : State) : (openFrame s).txCrc = s.txCrc := rfl
@[simp] theorem openFrame_acc (s : State) : (openFrame s).acc = s.acc := rfl
@[simp] theorem openFrame_rxIn (s : State) : (openFrame s).rxIn = s.rxIn := rfl
@[simp] theorem openFrame_txCmd (s : State) : (openFrame s).txCmd = s.txCmd := rfl
@[simp] theorem openFrame_crcOp (s : State) : (openFrame s).crcOp = s.crcOp := rfl
@[simp] theorem openFrame_resetIn (s : State) : (openFrame s).resetIn = s.resetIn := rfl
@[simp] theorem openFrame_rxPkt (s : State) : (openFrame s).rxPkt = s.rxPkt := rfl
@[simp] theorem openFrame_pktPending (s : State) : (openFrame s).pktPending = s.pktPending := rfl
@[simp] theorem openFrame_txOut (s : State) : (openFrame s).txOut = s.txOut := rfl
@[simp] theorem openFrame_txUntaken (s : State) : (openFrame s).txUntaken = s.txUntaken := rfl
@[simp] theorem openFrame_turns (s : State) : (openFrame s).turns = s.turns := rfl

@[simp] theorem toIdle_cfg (s : State) : (toIdle s).cfg = s.cfg := rfl
@[simp] theorem toIdle_rxState (s : State) : (toIdle s).rxState = .idle := rfl
@[simp] theorem toIdle_rxBuf (s : State) : (toIdle s).rxBuf = s.rxBuf := rfl
@[simp] theorem toIdle_rxLen (s : State) : (toIdle s).rxLen = 0 := rfl
@[simp] theorem toIdle_rxCrc (s : State) : (toIdle s).rxCrc = s.cfg.crcInit := rfl
@[simp] theorem toIdle_txState (s : State) : (toIdle s).txState = s.txState := rfl
@[simp] theorem toIdle_txCrc (s : State) : (toIdle s).txCrc = s.txCrc := rfl
@[simp] theorem toIdle_acc (s : State) : (toIdle s).acc = s.acc := rfl
@[simp] theorem toIdle_rxIn (s : State) : (toIdle s).rxIn = s.rxIn := rfl
@[simp] theorem toIdle_txCmd (s : State) : (toIdle s).txCmd = s.txCmd := rfl
@[simp] theorem toIdle_crcOp (s : State) : (toIdle s).crcOp = s.crcOp := rfl
@[simp] theorem toIdle_resetIn (s : State) : (toIdle s).resetIn = s.resetIn := rfl
@[simp] theorem toIdle_rxPkt (s : State) : (toIdle s).rxPkt = s.rxPkt := rfl
@[simp] theorem toIdle_pktPending (s : State) : (toIdle s).pktPending = s.pktPending := rfl
@[simp] theorem toIdle_txOut (s : State) : (toIdle s).txOut = s.txOut := rfl
@[simp] theorem toIdle_txUntaken (s : State) : (toIdle s).txUntaken = s.txUntaken := rfl
@[simp] theorem toIdle_turns (s : State) : (toIdle s).turns = s.turns := rfl

@[simp] theorem deliver_cfg (p : List Byte) (s : State) : (deliver p s).cfg = s.cfg := rfl
@[simp] theorem deliver_rxState (p : List Byte) (s : State) : (deliver p s).rxState = s.rxState := rfl
@[simp] theorem deliver_rxBuf (p : List Byte) (s : State) : (deliver p s).rxBuf = s.rxBuf := rfl
@[simp] theorem deliver_rxLen (p : List Byte) (s : State) : (deliver p s).rxLen = s.rxLen := rfl
@[simp] theorem deliver_rxCrc (p : List Byte) (s : State) : (deliver p s).rxCrc = s.rxCrc := rfl
@[simp] theorem deliver_txState (p : List Byte) (s : State) : (deliver p s).txState = s.txState := rfl
@[simp] theorem deliver_txCrc (p : List Byte) (s : State) : (deliver p s).txCrc = s.txCrc := rfl
@[simp] theorem deliver_acc (p : List Byte) (s : State) : (deliver p s).acc = s.acc := rfl
@[simp] theorem deliver_rxIn (p : List Byte) (s : State) : (deliver p s).rxIn = s.rxIn := rfl
@[simp] theorem deliver_txCmd (p : List Byte) (s : State) : (deliver p s).txCmd = s.txCmd := rfl
@[simp] theorem deliver_crcOp (p : List Byte) (s : State) : (deliver p s).crcOp = s.crcOp := rfl
@[simp] theorem deliver_resetIn (p : List Byte) (s : State) : (deliver p s).resetIn = s.resetIn := rfl
@[simp] theorem deliver_rxPkt (p : List Byte) (s : State) : (deliver p s).rxPkt = s.rxPkt ++ [p] := rfl
@[simp] theorem deliver_pktPending (p : List Byte) (s : State) : (deliver p s).pktPending = true := rfl
@[simp] theorem deliver_txOut (p : List Byte) (s : State) : (deliver p s).txOut = s.txOut := rfl
@[simp] theorem deliver_txUntaken (p : List Byte) (s : State) : (deliver p s).txUntaken = s.txUntaken := rfl
@[simp] theorem deliver_turns (p : List Byte) (s : State) : (deliver p s).turns = s.turns := rfl

@[simp] theorem emit_cfg (bs : List Byte) (s : State) : (emit bs s).cfg = s.cfg := rfl
@[simp] theorem emit_rxState (bs : List Byte) (s : State) : (emit bs s).rxState = s.rxState := rfl
@[simp] theorem emit_rxBuf (bs : List Byte) (s : State) : (emit bs s).rxBuf = s.rxBuf := rfl
@[simp] theorem emit_rxLen (bs : List Byte) (s : State) : (emit bs s).rxLen = s.rxLen := rfl
@[simp] theorem emit_rxCrc (bs : List Byte) (s : State) : (emit bs s).rxCrc = s.rxCrc := rfl
@[simp] theorem emit_txState (bs : List Byte) (s : State) : (emit bs s).txState = s.txState := rfl
@[simp] theorem emit_txCrc (bs : List Byte) (s : State) : (emit bs s).txCrc = s.txCrc := rfl
@[simp] theorem emit_acc (bs : List Byte) (s : State) : (emit bs s).acc = s.acc := rfl
@[simp] theorem emit_rxIn (bs : List Byte) (s : State) : (emit bs s).rxIn = s.rxIn := rfl
@[simp] theorem emit_txCmd (bs : List Byte) (s : State) : (emit bs s).txCmd = s.txCmd := rfl
@[simp] theorem emit_crcOp (bs : List Byte) (s : State) : (emit bs s).crcOp = s.crcOp := rfl
@[simp] theorem emit_resetIn (bs : List Byte) (s : State) : (emit bs s).resetIn = s.resetIn := rfl
@[simp] theorem emit_rxPkt (bs : List Byte) (s : State) : (emit bs s).rxPkt = s.rxPkt := rfl
@[simp] theorem emit_pktPending (bs : List Byte) (s : State) : (emit bs s).pktPending = s.pktPending := rfl
@[simp] theorem emit_txOut (bs : List Byte) (s : State) : (emit bs s).txOut = s.txOut ++ bs := rfl
@[simp] theorem emit_txUntaken (bs : List Byte) (s : State) : (emit bs s).txUntaken = s.txUntaken + bs.length := rfl
@[simp] theorem emit_turns (bs : List Byte) (s : State) : (emit bs s).turns = s.turns := rfl

/-- Every drop goes to `Idle` but that of an abandoned frame, which gives way to a fresh one. -/
theorem raiseDrop_eq (c : DropCause) (s : State) :
    raiseDrop c s = if c = .abandoned then openFrame s else toIdle s := by
  cases c <;> rfl

end Sys2Proof.Machine
end

