-- ==== Sys2Proof/Laws/Memory.lean ====
section
/-! SUPPORT. The buffer: a read after a write, the canonical form, and what an append does. -/

namespace Sys2Proof.Machine

@[simp] theorem Memory.read_write_same (m : Memory) (a : Nat) (v : Byte) : (m.write a v).read a = some v := by
  induction m with
  | nil => simp [Memory.write, Memory.read]
  | cons c rest ih =>
    obtain ⟨k, w⟩ := c
    unfold Memory.write
    split
    · simp [Memory.read]
    · split
      · simp [Memory.read]
      · rename_i _ h
        simp [Memory.read, Ne.symm h, ih]

theorem Memory.read_write_other (m : Memory) {a b : Nat} (v : Byte) (h : b ≠ a) :
    (m.write a v).read b = m.read b := by
  induction m with
  | nil => simp [Memory.write, Memory.read, Ne.symm h]
  | cons c rest ih =>
    obtain ⟨k, w⟩ := c
    unfold Memory.write
    split
    · simp [Memory.read, Ne.symm h]
    · split
      · rename_i _ hk
        subst hk
        simp [Memory.read, Ne.symm h]
      · simp [Memory.read, ih]

/-- A write adds no entry but its own. -/
theorem Memory.mem_write {m : Memory} {a : Nat} {v : Byte} {c : Host.Cell} (h : c ∈ m.write a v) :
    c = (a, v) ∨ c ∈ m := by
  induction m with
  | nil => simpa [Memory.write] using h
  | cons d rest ih =>
    obtain ⟨k, w⟩ := d
    unfold Memory.write at h
    split at h
    · simpa using h
    · split at h
      · rcases List.mem_cons.mp h with rfl | hm
        · exact .inl rfl
        · exact .inr (List.mem_cons_of_mem _ hm)
      · rcases List.mem_cons.mp h with rfl | hm
        · exact .inr List.mem_cons_self
        · exact (ih hm).imp_right (List.mem_cons_of_mem _)

/-- A write keeps the canonical form. -/
theorem Memory.wf_write {m : Memory} (a : Nat) (v : Byte) (h : m.wf) : (m.write a v).wf := by
  induction m with
  | nil => simp [Memory.write]
  | cons d rest ih =>
    obtain ⟨k, w⟩ := d
    obtain ⟨hk, hrest⟩ := List.pairwise_cons.mp h
    unfold Memory.write
    split
    · rename_i hlt
      refine List.pairwise_cons.mpr ⟨fun c hc => ?_, h⟩
      rcases List.mem_cons.mp hc with rfl | hm
      · exact hlt
      · exact lt_trans hlt (hk c hm)
    · split
      · rename_i _ heq
        subst heq
        exact List.pairwise_cons.mpr ⟨hk, hrest⟩
      · refine List.pairwise_cons.mpr ⟨fun c hc => ?_, ih hrest⟩
        rcases Memory.mem_write hc with rfl | hm
        · show k < a
          omega
        · exact hk c hm

theorem Memory.wf_nil : Memory.wf [] := List.Pairwise.nil

/-- All an append can do: it stores at `rx_len`, inside the address space, and counts the byte. -/
theorem bufAppend_eq_some {v : Byte} {s t : State} :
    bufAppend v s = some t ↔
      inSpace s.cfg s.rxLen = true ∧ t = { s with rxBuf := s.rxBuf.write s.rxLen v, rxLen := s.rxLen + 1 } := by
  unfold bufAppend memWrite
  cases h : inSpace s.cfg s.rxLen with
  | true => simpa using eq_comm
  | false => simp

/-- The bytes read out are as many as were asked for. -/
theorem bufBytes_length {s : State} {n : Nat} {p : List Byte} (h : bufBytes s n = some p) : p.length = n := by
  induction n generalizing p with
  | zero => simp_all [bufBytes]
  | succ n ih =>
    unfold bufBytes at h
    split at h
    · rename_i q v hq _
      obtain rfl := Option.some.inj h
      simp [ih hq]
    · cases h

/-- Reading out one byte more. -/
theorem bufBytes_succ {s : State} {n : Nat} {p : List Byte} {v : Byte} (hp : bufBytes s n = some p)
    (hv : memRead s n = some v) : bufBytes s (n + 1) = some (p ++ [v]) := by
  simp [bufBytes, hp, hv]

/-- What is read out depends on the readable bytes alone. -/
theorem bufBytes_congr {s t : State} {n : Nat} (h : ∀ i < n, memRead s i = memRead t i) :
    bufBytes s n = bufBytes t n := by
  induction n with
  | zero => rfl
  | succ n ih => simp only [bufBytes, ih fun i hi => h i (by omega), h n (by omega)]

end Sys2Proof.Machine
end

