-- ==== Sys2Proof/Laws/Exec.lean ====
section
/-! SUPPORT. All that each shared operation can do where it answers a next state. -/

namespace Sys2Proof.Machine

theorem whenSelected_eq_next {c : Bool} {k : Host.Outcome State Fault Refusal} {t : State} :
    whenSelected c k = .next t ↔ c = true ∧ k = .next t := by
  cases c <;> simp [whenSelected]

theorem whenTx_eq_next {st : TxState} {s t u : State} :
    whenTx st s t = .next u ↔ s.txState = st ∧ t = u := by
  unfold whenTx
  split <;> simp_all

theorem appendCause_eq {s : State} {c : DropCause} (h : appendCause s = some c) :
    c = .overflow ∧ bufFull s = true := by
  unfold appendCause at h
  split at h <;> simp_all

theorem appendCause_none {s : State} (h : appendCause s = none) : bufFull s = false := by
  unfold appendCause at h
  split at h <;> simp_all

theorem startCause_eq {s : State} {c : DropCause} (h : startCause s = some c) : c = .abandoned := by
  unfold startCause at h
  split at h <;> simp_all

/-- RX.END's causes are the three of 60_exceptions R85 to R87. -/
theorem endCause_ne_abandoned {s : State} {c : DropCause} (h : endCause s = some c) : c ≠ .abandoned := by
  unfold endCause at h
  split at h
  · rintro rfl
    cases h
  · split at h
    · rintro rfl
      cases h
    · split at h
      · rintro rfl
        cases h
      · cases h

/-- No cause at RX.END means residue zero and at least four bytes (42_frame_receiver R73). -/
theorem endCause_none {s : State} : endCause s = none ↔ s.rxCrc = 0x00 ∧ 4 ≤ s.rxLen := by
  unfold endCause residueZero bufNonempty hdrOk hdrLen
  split
  · simp_all
  · split
    · simp_all
    · split
      · simp_all
        omega
      · simp_all
        omega

/-- RX.START is the same in every state: a fresh frame. -/
theorem execRxStart_eq (s : State) : execRxStart s = .next (openFrame s) := by
  unfold execRxStart
  cases h : startCause s with
  | none => rfl
  | some c =>
    obtain rfl := startCause_eq h
    rfl

/-- All that taking a decoded byte can do: Overflow, or the byte is appended and accumulated. -/
theorem acceptByte_eq_next {v : Byte} {s t : State} :
    acceptByte v s = .next t ↔
      (bufFull s = true ∧ t = toIdle s) ∨
      (bufFull s = false ∧ inSpace s.cfg s.rxLen = true ∧
        t = { s with rxBuf := s.rxBuf.write s.rxLen v, rxLen := s.rxLen + 1, rxCrc := crc8Update s.rxCrc v,
                     rxState := .receiving }) := by
  unfold acceptByte
  cases hc : appendCause s with
  | some c =>
    obtain ⟨rfl, hf⟩ := appendCause_eq hc
    simpa [hf, raiseDrop] using eq_comm
  | none =>
    have hf := appendCause_none hc
    cases ha : bufAppend v s with
    | none =>
      have hs : ¬ inSpace s.cfg s.rxLen = true := fun hs => by
        have h := (bufAppend_eq_some (v := v)).mpr ⟨hs, rfl⟩
        simp [ha] at h
      simp [hf, hs]
    | some u =>
      obtain ⟨hs, rfl⟩ := bufAppend_eq_some.mp ha
      simpa [hf, hs] using eq_comm

/-- All that RX.END can do: drop to `Idle`, or deliver and go to `Idle`. -/
theorem execRxEnd_eq_next {s t : State} :
    execRxEnd s = .next t ↔
      s.rxState = .receiving ∧
      ((¬ (s.rxCrc = 0x00 ∧ 4 ≤ s.rxLen) ∧ t = toIdle s) ∨
        (s.rxCrc = 0x00 ∧ 4 ≤ s.rxLen ∧ ∃ p, bufBytes s (s.rxLen - 1) = some p ∧ t = toIdle (deliver p s))) := by
  unfold execRxEnd
  rw [whenSelected_eq_next]
  simp only [beq_iff_eq]
  refine and_congr_right fun _ => ?_
  cases hc : endCause s with
  | some c =>
    have hn : ¬ (s.rxCrc = 0x00 ∧ 4 ≤ s.rxLen) := fun h => by simp [endCause_none.mpr h] at hc
    have hne := endCause_ne_abandoned hc
    constructor
    · intro h
      exact .inl ⟨hn, by simpa [raiseDrop_eq, hne] using (Host.Outcome.next.inj h).symm⟩
    · rintro (⟨_, rfl⟩ | ⟨h1, h2, _⟩)
      · simp [raiseDrop_eq, hne]
      · exact absurd ⟨h1, h2⟩ hn
  | none =>
    have hy := endCause_none.mp hc
    cases hp : bufBytes s (s.rxLen - 1) with
    | none => simp [hy]
    | some p => simpa [hy] using eq_comm

end Sys2Proof.Machine
end

