-- ==== Sys2Proof/Laws/PerInstr.lean ====
section
/-! SUPPORT. Family TableRow: the encoding of each operation fits its row of spec/opcode_table.json. -/

namespace Sys2Proof.Laws.TableRow

/-- The encoded word, masked, is the row's match. -/
def Statement (i : Instr) : Prop :=
  i.wellFormed = true → (encode i).bits &&& i.tableRow.2 = i.tableRow.1

theorem rxStart : Statement .rxStart := by intro _; decide
theorem rxIgnore : Statement .rxIgnore := by intro _; decide
theorem rxEnd : Statement .rxEnd := by intro _; decide
theorem rxEsc : Statement .rxEsc := by intro _; decide
theorem rxXdata (b : Byte) : Statement (.rxXdata b) := by intro _; simp [encode, Instr.tableRow]
theorem rxData (b : Byte) : Statement (.rxData b) := by intro _; simp [encode, Instr.tableRow]
theorem txReserved : Statement .txReserved := by intro _; decide
theorem txOpen : Statement .txOpen := by intro _; decide
theorem txByte (b : Byte) : Statement (.txByte b) := by
  intro _
  revert b
  decide
theorem txClose : Statement .txClose := by intro _; decide
theorem crcClear : Statement .crcClear := by intro _; decide
theorem crcUpdate (b : Byte) : Statement (.crcUpdate b) := by
  intro _
  revert b
  decide
theorem reset : Statement .reset := by intro _; decide

end Sys2Proof.Laws.TableRow
end

