-- ==== Sys2Proof/Laws/Step.lean ====
section
/-! SUPPORT. All that a step can find to do. -/

namespace Sys2Proof.Machine

/-- A step performs RESET, or an operation at its unit's turn, or lets the machine go on without one. -/
theorem fetch_cases (s : State) :
    (s.resetIn = true ∧ fetch s = .run .reset { s with resetIn := false }) ∨
    (s.resetIn = false ∧
      ((s.turns = [] ∧ fetch s = .wait s) ∨
       ∃ t rest, s.turns = t :: rest ∧ fetch s = takeTurn t { s with turns := rest })) := by
  unfold fetch
  cases hr : s.resetIn with
  | true => simp
  | false =>
    cases ht : s.turns <;> simp

/-- All that RX's turn can be. -/
theorem fetchRx_cases (s : State) :
    fetchRx s = .wait s ∨
    ∃ b rest, s.rxIn = b :: rest ∧ s.pktPending = false ∧
      fetchRx s = .run (decodeRx s.rxState b) { s with rxIn := rest } := by
  unfold fetchRx
  cases h : s.rxIn with
  | nil => exact .inl rfl
  | cons b rest => cases hp : s.pktPending <;> simp

/-- All that TX's turn can be. -/
theorem fetchTx_cases (s : State) :
    fetchTx s = .wait s ∨
    ∃ w rest, s.txCmd = w :: rest ∧ s.txUntaken = 0 ∧ fetchTx s = .run (decodeTx w) { s with txCmd := rest } := by
  unfold fetchTx
  cases h : s.txCmd with
  | nil => exact .inl rfl
  | cons w rest => by_cases hu : s.txUntaken = 0 <;> simp [hu]

/-- All that the turn of the CRC8 unit taken on its own can be. -/
theorem fetchCrc_cases (s : State) :
    fetchCrc s = .wait s ∨
    ∃ w rest, s.crcOp = w :: rest ∧ fetchCrc s = .run (decodeCrc w) { s with crcOp := rest } := by
  unfold fetchCrc
  cases h : s.crcOp <;> simp

theorem step_of_run {s t : State} {i : Instr} (h : fetch s = .run i t) : step s = exec i t := by
  simp [step, h]

theorem step_of_wait {s t : State} (h : fetch s = .wait t) : step s = .next t := by
  simp [step, h]

end Sys2Proof.Machine
end

