-- ==== Sys2Proof/Laws/Run.lean ====
section
/-! SUPPORT. Runs taken apart: what the end of a schedule allows, and how a run is built. -/

namespace Sys2Proof.Machine

@[simp] theorem observe_packets (s : State) : (observe s).packets = s.rxPkt := rfl
@[simp] theorem observe_emitted (s : State) : (observe s).emitted = s.txOut := rfl
@[simp] theorem observe_rxState (s : State) : (observe s).rxState = s.rxState := rfl
@[simp] theorem observe_rxBytes (s : State) : (observe s).rxBytes = bufBytes s s.rxLen := rfl
@[simp] theorem observe_rxCrc (s : State) : (observe s).rxCrc = s.rxCrc := rfl
@[simp] theorem observe_txState (s : State) : (observe s).txState = s.txState := rfl
@[simp] theorem observe_txCrc (s : State) : (observe s).txCrc = s.txCrc := rfl

theorem run_refl (s : State) : run s s := Relation.ReflTransGen.refl

theorem run_trans {s t u : State} (h : run s t) (h' : run t u) : run s u := Relation.ReflTransGen.trans h h'

theorem run_of_step {s t u : State} (h : step s = .next t) (h' : run t u) : run s u :=
  Relation.ReflTransGen.head (.inl h) h'

theorem run_of_withdraw {s u : State} (h : commandRefused s) (h' : run (withdrawRefused s) u) : run s u :=
  Relation.ReflTransGen.head (.inr ⟨h, .inr rfl⟩) h'

theorem run_of_hold {s u : State} (h : commandRefused s) (h' : run (holdRefused s) u) : run s u :=
  Relation.ReflTransGen.head (.inr ⟨h, .inl rfl⟩) h'

/-- A property that every move keeps holds along a run. -/
theorem run_keeps {P : State → Prop} (hm : ∀ s t, P s → runMove s t → P t) {s t : State} (h : run s t)
    (hs : P s) : P t := by
  induction h with
  | refl => exact hs
  | tail _ hmove ih => exact hm _ _ ih hmove

/-- With no turn left and no reset outstanding a step changes nothing. -/
theorem step_of_exhausted {s : State} (ht : s.turns = []) (hr : s.resetIn = false) : step s = .next s :=
  step_of_wait (by simp [fetch, hr, ht])

/-- All that a move can be: a step, or the passing of a refused command. -/
theorem runMove_eq_of_step {s t u : State} (hs : step s = .next t) (h : runMove s u) : u = t := by
  rcases h with h | ⟨h | h, _⟩
  · exact (Host.Outcome.next.inj (hs.symm.trans h)).symm
  · simp [hs] at h
  · simp [hs] at h

/-- With no turn left and no reset outstanding a run stays where it is. -/
theorem run_of_exhausted {s t : State} (ht : s.turns = []) (hr : s.resetIn = false) (h : run s t) : t = s :=
  run_keeps (P := fun u => u = s)
    (fun _ _ hu hm => runMove_eq_of_step (step_of_exhausted ht hr) (hu ▸ hm)) h rfl

/-- A run from a state with a step stays there or goes on from the step's next state. -/
theorem run_cases_of_step {s t u : State} (hs : step s = .next t) (h : run s u) : u = s ∨ run t u := by
  rcases Relation.ReflTransGen.cases_head h with rfl | ⟨v, hm, hv⟩
  · exact .inl rfl
  · exact .inr (runMove_eq_of_step hs hm ▸ hv)

/-- A sink that has taken all has taken exactly the emitted bytes. -/
theorem sinkTaken_of_sinkTookAll {s : State} (h : sinkTookAll s) : sinkTaken s = s.txOut := by
  simp [sinkTaken, show s.txUntaken = 0 from h]

end Sys2Proof.Machine
end

