-- ==== Sys2Proof/Laws/Stream.lean ====
section
/-! SUPPORT. Streams and sequences taken apart. -/

namespace Sys2Proof.Machine

theorem rxStream_cons_next {b : Byte} {rest : List Byte} {s t : State} (h : rxStep b s = .next t) :
    rxStream (b :: rest) s = rxStream rest t := by
  simp [rxStream, h]

theorem rxStream_append_next {p q : List Byte} {s t : State} (h : rxStream p s = .next t) :
    rxStream (p ++ q) s = rxStream q t := by
  induction p generalizing s with
  | nil =>
    obtain rfl := Host.Outcome.next.inj h
    rfl
  | cons b p ih =>
    simp only [rxStream, List.cons_append] at h ⊢
    cases hb : rxStep b s with
    | next u =>
      simp only [hb] at h ⊢
      exact ih h
    | fault f => simp [hb] at h
    | refused r => simp [hb] at h

theorem execAll_cons_next {i : Instr} {rest : List Instr} {s t : State} (h : exec i s = .next t) :
    execAll (i :: rest) s = execAll rest t := by
  simp [execAll, h]

theorem execAll_append_next {p q : List Instr} {s t : State} (h : execAll p s = .next t) :
    execAll (p ++ q) s = execAll q t := by
  induction p generalizing s with
  | nil =>
    obtain rfl := Host.Outcome.next.inj h
    rfl
  | cons i p ih =>
    simp only [execAll, List.cons_append] at h ⊢
    cases hi : exec i s with
    | next u =>
      simp only [hi] at h ⊢
      exact ih h
    | fault f => simp [hi] at h
    | refused r => simp [hi] at h

/-- The start marker opens a fresh frame from every state (42_frame_receiver R66). -/
theorem rxStep_sof (s : State) : rxStep sof s = .next (openFrame s) := by
  simp [rxStep, exec, execRxStart_eq]

end Sys2Proof.Machine
end

