-- ==== Sys2Proof/Laws/Units.lean ====
section
/-! SUPPORT. All that the operations of each unit can do where they answer a next state. -/

namespace Sys2Proof.Machine

theorem bufFull_iff {s : State} : bufFull s = true ↔ s.cfg.bufCap = some s.rxLen := by
  unfold bufFull
  cases s.cfg.bufCap with
  | none => simp
  | some k => simpa using eq_comm

/-- Within `BUF_CAP` and not full, the next index is in the address space. -/
theorem inSpace_of_fitsCap {s : State} (h : fitsCap s.cfg s.rxLen = true) (hn : bufFull s = false) :
    inSpace s.cfg s.rxLen = true := by
  unfold bufFull at hn
  unfold inSpace
  unfold fitsCap at h ⊢
  cases hc : s.cfg.bufCap with
  | none => rfl
  | some k =>
    simp_all
    omega

/-- RX's decoding gives RX operations only. -/
theorem unitOf_decodeRx (st : RxState) (b : Byte) : unitOf (decodeRx st b) = .rx := by
  unfold decodeRx
  repeat' split
  all_goals rfl

/-- TX's decoding gives TX operations only. -/
theorem unitOf_decodeTx (w : TxWord) : unitOf (decodeTx w) = .tx := by
  unfold decodeTx
  repeat' split
  all_goals rfl

/-- The decoding of a CRC8 unit taken on its own gives its operations only. -/
theorem unitOf_decodeCrc (w : CrcWord) : unitOf (decodeCrc w) = .crc := by
  unfold decodeCrc
  split <;> rfl

/-- All that an RX operation can do. -/
theorem exec_rx_cases {i : Instr} {s t : State} (hu : unitOf i = .rx) (h : exec i s = .next t) :
    (i = .rxStart ∧ t = openFrame s) ∨
    (i = .rxIgnore ∧ s.rxState = .idle ∧ t = s) ∨
    (i = .rxEnd ∧ s.rxState = .receiving ∧
      ((¬ (s.rxCrc = 0x00 ∧ 4 ≤ s.rxLen) ∧ t = toIdle s) ∨
        (s.rxCrc = 0x00 ∧ 4 ≤ s.rxLen ∧ ∃ p, bufBytes s (s.rxLen - 1) = some p ∧ t = toIdle (deliver p s)))) ∨
    (i = .rxEsc ∧ s.rxState = .receiving ∧ t = { s with rxState := .escaping }) ∨
    (∃ v, isAppend i = true ∧ s.rxState ≠ .idle ∧
      ((bufFull s = true ∧ t = toIdle s) ∨
        (bufFull s = false ∧ inSpace s.cfg s.rxLen = true ∧
          t = { s with rxBuf := s.rxBuf.write s.rxLen v, rxLen := s.rxLen + 1, rxCrc := crc8Update s.rxCrc v,
                       rxState := .receiving }))) := by
  cases i <;> simp only [unitOf, reduceCtorEq] at hu
  case rxStart =>
    simp only [exec, execRxStart_eq] at h
    exact .inl ⟨rfl, (Host.Outcome.next.inj h).symm⟩
  case rxIgnore =>
    obtain ⟨h1, h2⟩ := whenSelected_eq_next.mp h
    exact .inr (.inl ⟨rfl, by simpa using h1, (Host.Outcome.next.inj h2).symm⟩)
  case rxEnd => exact .inr (.inr (.inl ⟨rfl, execRxEnd_eq_next.mp h⟩))
  case rxEsc =>
    obtain ⟨h1, h2⟩ := whenSelected_eq_next.mp h
    exact .inr (.inr (.inr (.inl ⟨rfl, by simpa using h1, (Host.Outcome.next.inj h2).symm⟩)))
  all_goals
    obtain ⟨h1, h2⟩ := whenSelected_eq_next.mp h
    simp only [Bool.and_eq_true, beq_iff_eq] at h1
    exact .inr (.inr (.inr (.inr ⟨_, rfl, by simp [h1], acceptByte_eq_next.mp h2⟩)))

/-- All that a TX operation can do. -/
theorem exec_tx_cases {i : Instr} {s t : State} (hu : unitOf i = .tx) (h : exec i s = .next t) :
    (i = .txOpen ∧ s.txState = .idle ∧ t = { txCrcClear (emit [sof] s) with txState := .active }) ∨
    (∃ b, i = .txByte b ∧ s.txState = .active ∧ t = { emit (esc b) s with txCrc := crc8Update s.txCrc b }) ∨
    (i = .txClose ∧ s.txState = .active ∧
      t = { txCrcClear (emit (esc s.txCrc ++ [eof]) s) with txState := .idle }) := by
  cases i <;> simp only [unitOf, reduceCtorEq] at hu
  case txReserved => cases h
  case txOpen =>
    obtain ⟨h1, h2⟩ := whenTx_eq_next.mp h
    exact .inl ⟨rfl, h1, h2.symm⟩
  case txByte b =>
    obtain ⟨h1, h2⟩ := whenTx_eq_next.mp h
    exact .inr (.inl ⟨b, rfl, h1, h2.symm⟩)
  case txClose =>
    obtain ⟨h1, h2⟩ := whenTx_eq_next.mp h
    exact .inr (.inr ⟨rfl, h1, h2.symm⟩)

/-- All that an operation of the CRC8 unit taken on its own can do. -/
theorem exec_crc_cases {i : Instr} {s t : State} (hu : unitOf i = .crc) (h : exec i s = .next t) :
    (i = .crcClear ∧ t = { s with acc := s.cfg.crcInit }) ∨
    (∃ b, i = .crcUpdate b ∧ t = { s with acc := crc8Update s.acc b }) := by
  cases i <;> simp only [unitOf, reduceCtorEq] at hu
  case crcClear => exact .inl ⟨rfl, (Host.Outcome.next.inj h).symm⟩
  case crcUpdate b => exact .inr ⟨b, rfl, (Host.Outcome.next.inj h).symm⟩

/-- RESET is the only operation on the block as a whole. -/
theorem unitOf_eq_block {i : Instr} (h : unitOf i = .block) : i = .reset := by
  cases i <;> simp only [unitOf, reduceCtorEq] at h
  rfl

end Sys2Proof.Machine
end

