-- ==== Sys2Proof/Tests/Slice0.lean ====
section
/-! SUPPORT. Tests: expected values are from 95_test_vectors.md and the tables of 30_encoding.md. The test of a
statement's hypotheses is named test_witness and the statement. -/

namespace Sys2Proof.Tests

open Machine

set_option maxRecDepth 20000

/-- `CRC_INIT = 00`, `BUF_CAP` unbounded: the vectors' default. -/
def cfg0 : Config := Config.default

/-- A finite buffer (95_test_vectors P6). -/
def cfg4 : Config := { crcInit := 0x00, bufCap := some 4 }

/-- RX in a state with buffered bytes and an accumulator, all else as after reset. -/
def rxAt (c : Config) (st : RxState) (bytes : List Byte) (crc : Byte) : State :=
  { State.resetWith c with rxState := st, rxBuf := bytes.zipIdx.map fun x => (x.2, x.1), rxLen := bytes.length,
                           rxCrc := crc }

/-- TX with a frame open and an accumulator, all else as after reset. -/
def txAt (crc : Byte) : State := { State.resetWith cfg0 with txState := .active, txCrc := crc }

/-- The outcome is a next state of which `p` holds. -/
def after (o : Host.Outcome State Fault Refusal) (p : State → Bool) : Bool :=
  match o with
  | .next t => p t
  | .fault _ => false
  | .refused _ => false

/-- The outcome is a next state whose RX registers and bytes, and whose packets, are these. -/
def rxIs (o : Host.Outcome State Fault Refusal) (st : RxState) (bytes : List Byte) (crc : Byte)
    (packets : List (List Byte)) : Bool :=
  after o fun t => t.rxState == st && bufBytes t t.rxLen == some bytes && t.rxCrc == crc && t.rxPkt == packets

/-- The outcome is a next state with these emitted bytes, state and accumulator of TX. -/
def txIs (o : Host.Outcome State Fault Refusal) (out : List Byte) (st : TxState) (crc : Byte) : Bool :=
  after o fun t => t.txOut == out && t.txState == st && t.txCrc == crc

/-! ### The codes of the states (10_state R12 and R15) -/

theorem test_rx_state_code : rxStateCode .escaping = 0b10 := by decide
theorem test_tx_state_code : txStateCode .active = 1 := by decide

/-! ### Ill-formed operations -/

theorem test_wellFormed_refuses_xdata_start_marker : (Instr.rxXdata 0x55).wellFormed = false := by decide
theorem test_wellFormed_refuses_data_start_marker : (Instr.rxData 0x55).wellFormed = false := by decide
theorem test_wellFormed_refuses_data_end_marker : (Instr.rxData 0x5A).wellFormed = false := by decide
theorem test_wellFormed_refuses_data_escape_byte : (Instr.rxData 0x50).wellFormed = false := by decide

/-! ### Words written out from the encodings of 30_encoding R38, R42 and R43 -/

theorem test_decode_rx_start : decode .escaping (.rxIn 0b01010101) = .rxStart := by decide
theorem test_decode_rx_ignore : decode .idle (.rxIn 0b01011010) = .rxIgnore := by decide
theorem test_decode_rx_end : decode .receiving (.rxIn 0b01011010) = .rxEnd := by decide
theorem test_decode_rx_esc : decode .receiving (.rxIn 0b01010000) = .rxEsc := by decide
theorem test_decode_rx_xdata : decode .escaping (.rxIn 0b01010000) = .rxXdata 0x50 := by decide
theorem test_decode_rx_data : decode .receiving (.rxIn 0b10100101) = .rxData 0xA5 := by decide
theorem test_decode_tx_reserved : decode .idle (.txCmd 0b0010101010) = .txReserved := by decide
theorem test_decode_tx_open : decode .idle (.txCmd 0b0111111111) = .txOpen := by decide
theorem test_decode_tx_byte : decode .idle (.txCmd 0b1001011010) = .txByte 0x5A := by decide
theorem test_decode_tx_close : decode .idle (.txCmd 0b1100000001) = .txClose := by decide
theorem test_decode_crc_clear : decode .idle (.crcOp 0b011111111) = .crcClear := by decide
theorem test_decode_crc_update : decode .idle (.crcOp 0b111011000) = .crcUpdate 0xD8 := by decide
theorem test_decode_reset : decode .receiving .resetIn = .reset := by decide
theorem test_table_word_end : decodeTableWord 8 0x5A = some .rxEnd := by decide
theorem test_table_word_byte : decodeTableWord 16 0x25A = some (.txByte 0x5A) := by decide

/-! ### The CRC8 and the frame (95_test_vectors sections 2 and 3) -/

theorem test_crc_update_12_34 : crc8Update 0x12 0x34 = 0xFE := by decide
theorem test_crc_serial_12_34 : crc8UpdateSerial 0x12 0x34 = 0xFE := by decide
theorem test_crc_check_value : crc8From 0x00 [0x31, 0x32, 0x33, 0x34, 0x35, 0x36, 0x37, 0x38, 0x39] = 0xA1 := by
  decide
theorem test_crc_init_ff : crc8From 0xFF [0x01, 0x02, 0x03] = 0x0A := by decide
theorem test_encode_source_example :
    encodeFrame 0x00 [0x3F, 0x3F, 0x02, 0x54, 0x45, 0x5A, 0x54] =
      [0x55, 0x3F, 0x3F, 0x02, 0x54, 0x45, 0x50, 0xA5, 0x54, 0xE4, 0x5A] := by decide
theorem test_encode_escaped_checksum :
    encodeFrame 0x00 [0x01, 0x02, 0x1D] = [0x55, 0x01, 0x02, 0x1D, 0x50, 0xA5, 0x5A] := by decide

/-! ### The operations, one step each (95_test_vectors sections 3.2 to 4.1, P6, P7) -/

theorem test_rxStart_from_escaping :
    rxIs (rxStep 0x55 (rxAt cfg0 .escaping [0x11] 0xC3)) .receiving [] 0x00 [] = true := by decide
theorem test_rxIgnore_end_marker : rxIs (rxStep 0x5A (rxAt cfg0 .idle [] 0x00)) .idle [] 0x00 [] = true := by decide
theorem test_rxEnd_delivers :
    rxIs (rxStep 0x5A (rxAt cfg0 .receiving [0x01, 0x02, 0x03, 0xD8] 0x00)) .idle [] 0x00 [[0x01, 0x02, 0x03]] =
      true := by decide
theorem test_rxEnd_three_bytes_drops :
    rxIs (rxStep 0x5A (rxAt cfg0 .receiving [0x01, 0x02, 0x78] 0x00)) .idle [] 0x00 [] = true := by decide
theorem test_rxEsc_keeps_buffer :
    rxIs (rxStep 0x50 (rxAt cfg0 .receiving [0x3F, 0x3F, 0x02, 0x54, 0x45] 0x43)) .escaping
      [0x3F, 0x3F, 0x02, 0x54, 0x45] 0x43 [] = true := by decide
theorem test_rxXdata_complements :
    rxIs (rxStep 0xA5 (rxAt cfg0 .escaping [0x3F, 0x3F, 0x02, 0x54, 0x45] 0x43)) .receiving
      [0x3F, 0x3F, 0x02, 0x54, 0x45, 0x5A] 0x01 [] = true := by decide
theorem test_rxXdata_end_marker_is_data :
    rxIs (rxStep 0x5A (rxAt cfg0 .escaping [] 0x00)) .receiving [0xA5] 0x90 [] = true := by decide
theorem test_rxData_checksum :
    rxIs (rxStep 0xD8 (rxAt cfg0 .receiving [0x01, 0x02, 0x03] 0xD8)) .receiving [0x01, 0x02, 0x03, 0xD8] 0x00 [] =
      true := by decide
theorem test_rxData_overflow :
    rxIs (rxStep 0xF4 (rxAt cfg4 .receiving [0x01, 0x02, 0x03, 0x04] 0xF4)) .idle [] 0x00 [] = true := by decide
theorem test_rxData_stale_bytes_unreadable :
    (after (rxStep 0x55 (rxAt cfg0 .receiving [0x01, 0x02] 0x78)) fun t => memRead t 0 == none) = true := by decide
theorem test_drop_cause_framing :
    dropCause .rxEnd (rxAt cfg0 .receiving [0x01, 0x02, 0x03, 0xD9] 0x5E) = some .framingError := by decide
theorem test_drop_cause_empty : dropCause .rxEnd (rxAt cfg0 .receiving [] 0x00) = some .emptyFrame := by decide
theorem test_drop_cause_empty_init_ff :
    dropCause .rxEnd (rxAt { crcInit := 0xFF, bufCap := none } .receiving [] 0xFF) = some .framingError := by decide
theorem test_txOpen : txIs (exec .txOpen State.reset) [0x55] .active 0x00 = true := by decide
theorem test_txOpen_refused_in_active : exec .txOpen (txAt 0x00) = .refused .txOutOfSequence := by rfl
theorem test_txByte_escapes : txIs (exec (.txByte 0x5A) (txAt 0x43)) [0x50, 0xA5] .active 0x01 = true := by decide
theorem test_txByte_refused_in_idle : exec (.txByte 0x41) State.reset = .refused .txOutOfSequence := by rfl
theorem test_txClose_escapes_checksum :
    txIs (exec .txClose (txAt 0x5A)) [0x50, 0xA5, 0x5A] .idle 0x00 = true := by decide
theorem test_txClose_plain : txIs (exec .txClose (txAt 0xD8)) [0xD8, 0x5A] .idle 0x00 = true := by decide
theorem test_txReserved_refused : exec .txReserved State.reset = .refused .txReservedCode := by rfl
theorem test_crcClear : (after (exec .crcClear { State.reset with acc := 0xD8 }) fun t => t.acc == 0x00) = true := by
  decide
theorem test_crcUpdate :
    (after (exec (.crcUpdate 0x03) { State.reset with acc := 0x78 }) fun t => t.acc == 0xD8) = true := by decide
theorem test_reset_mid_frame :
    rxIs (exec .reset (rxAt cfg0 .escaping [0x11] 0xC3)) .idle [] 0x00 [] = true := by decide

/-! ### The step -/

/-- A raw byte presented, at RX's turn. -/
def rxPresented (b : Byte) (s : State) : State := { s with rxIn := [b], turns := [.rx] }

/-- A command presented, at TX's turn. -/
def txPresented (w : TxWord) (s : State) : State := { s with txCmd := [w], turns := [.tx] }

theorem test_fetchWord_end : rxIs (step (State.reset.withFetchWord 8 0x5A)) .idle [] 0x00 [] = true := by decide
theorem test_fetchWord_open : txIs (step (State.reset.withFetchWord 16 0x100)) [0x55] .active 0x00 = true := by
  decide
theorem test_fetchWord_byte : txIs (step (State.reset.withFetchWord 16 0x25A)) [0x50, 0xA5] .active 0xA5 = true := by
  decide
theorem test_step_waits_for_consumer :
    (after (step { rxPresented 0x55 State.reset with pktPending := true }) fun t => t.rxIn == [0x55]) = true := by
  decide

/-! ### Witnesses of hypotheses -/

/-- A delivered frame is about to end: 01 02 03 D8 buffered (95_test_vectors P5, step 19). -/
def full : State := rxAt cfg4 .receiving [0x01, 0x02, 0x03, 0xD8] 0x00

theorem inv_full : full.Inv where
  cfgWf := by decide
  bufWf := by decide
  bufInSpace := by decide
  lenFits := by decide
  crcOfBuffer := ⟨[0x01, 0x02, 0x03, 0xD8], by decide, by decide⟩
  rxIdle := by decide
  txIdle := by decide
  packets := by decide
  pending := by decide
  untaken := by decide

/-- The same with the end marker presented at RX's turn. -/
theorem inv_full_presented : (rxPresented 0x5A full).Inv where
  cfgWf := by decide
  bufWf := by decide
  bufInSpace := by decide
  lenFits := by decide
  crcOfBuffer := ⟨[0x01, 0x02, 0x03, 0xD8], by decide, by decide⟩
  rxIdle := by decide
  txIdle := by decide
  packets := by decide
  pending := by decide
  untaken := by decide

/-- The state after the end marker in `full`. -/
def delivered : State :=
  { full with rxState := .idle, rxLen := 0, rxPkt := [[0x01, 0x02, 0x03]], pktPending := true }

theorem step_full : rxStep 0x5A full = .next delivered := by rfl

theorem test_witness_DecodeEncodeAgree :
    ((Instr.rxXdata 0xA5).wellFormed = true ∧ (Instr.rxXdata 0xA5).selectedIn .escaping = true) ∧
    ((Instr.rxData 0xD8).wellFormed = true ∧ (Instr.rxData 0xD8).selectedIn .receiving = true) ∧
    ((Instr.rxIgnore).wellFormed = true ∧ (Instr.rxIgnore).selectedIn .idle = true) ∧
    ((Instr.txByte 0xFF).wellFormed = true ∧ (Instr.txByte 0xFF).selectedIn .idle = true) := by decide
theorem test_witness_CommandWordsDecodeByMask :
    ((0x0FF : TxWord) &&& 0x300 = 0x000) ∧ ((0x1FF : TxWord) &&& 0x300 = 0x100) ∧
    ((0x2FF : TxWord) &&& 0x300 = 0x200) ∧ ((0x3FF : TxWord) &&& 0x300 = 0x300) ∧
    ((0x0FF : CrcWord) &&& 0x100 = 0x000) ∧ ((0x1FF : CrcWord) &&& 0x100 = 0x100) := by decide
theorem test_witness_EscapeFunction :
    ((0x50 : Byte) = 0x55 ∨ (0x50 : Byte) = 0x5A ∨ (0x50 : Byte) = 0x50) ∧
    ¬ ((0x51 : Byte) = 0x55 ∨ (0x51 : Byte) = 0x5A ∨ (0x51 : Byte) = 0x50) := by decide
theorem test_witness_EscapePairs : esc 0x55 = [0x50, 0xAA] := by decide
theorem test_witness_EncodeIsTransparent : (encodeFrame 0x00 [0x55])[1]? = some 0x50 := by decide
theorem test_witness_ResidueZeroIffOwnChecksum : crc8From 0xFF ([0x01, 0x02, 0x03] ++ [0x0A]) = 0x00 := by decide
theorem test_witness_CrcDetectsOneWrongByte : (0x20 : Byte) ≠ 0x21 := by decide
theorem test_witness_TxOpenCompletes : State.reset.txState = .idle ∧ (txAt 0x00).txState = .active := by decide
theorem test_witness_TxByteCompletes :
    ((txAt 0x43).txState = .active ∧ ((0x5A : Byte) = 0x55 ∨ (0x5A : Byte) = 0x5A ∨ (0x5A : Byte) = 0x50)) ∧
    ((txAt 0x43).txState = .active ∧ ¬ ((0x5B : Byte) = 0x55 ∨ (0x5B : Byte) = 0x5A ∨ (0x5B : Byte) = 0x50)) ∧
    State.reset.txState = .idle := by decide
theorem test_witness_TxCloseCompletes : (txAt 0x5A).txState = .active ∧ State.reset.txState = .idle := by decide
theorem test_witness_TxFrameEmitsEncode : (State.resetWith cfg4).txState = .idle := by decide
theorem test_witness_ProducerInOrderIsNeverRefused :
    producerInOrder State.reset.txState [.txOpen, .txByte 0x55, .txClose, .txOpen] = true ∧
    producerInOrder (txAt 0x00).txState [.txClose] = true := by decide
/-- Two states that differ only in what TX cannot see. -/
theorem test_witness_TxSeesOnlyItsOwnState :
    unitOf (.txByte 0x41) = .tx ∧ TxSame (txAt 0x43) { txAt 0x43 with acc := 0x11, txOut := [0x55] } ∧
    ∃ t, exec (.txByte 0x41) (txAt 0x43) = .next t := by
  exact ⟨by decide, ⟨rfl, rfl, rfl⟩, _, rfl⟩
theorem test_witness_RxIgnoreCompletes : State.reset.rxState = .idle ∧ (0x5A : Byte) ≠ 0x55 := by decide
/-- The bounds: three bytes do not deliver, four do, and a residue of 01 does not. -/
theorem test_witness_RxEndCompletes :
    full.rxState = .receiving ∧
    ¬ ((rxAt cfg0 .receiving [0x01, 0x02, 0x78] 0x00).rxCrc = 0x00 ∧
      4 ≤ (rxAt cfg0 .receiving [0x01, 0x02, 0x78] 0x00).rxLen) ∧
    ¬ ((rxAt cfg0 .receiving [0x01, 0x02, 0x03, 0xD8] 0x01).rxCrc = 0x00 ∧
      4 ≤ (rxAt cfg0 .receiving [0x01, 0x02, 0x03, 0xD8] 0x01).rxLen) ∧
    (full.rxCrc = 0x00 ∧ 4 ≤ full.rxLen ∧ bufBytes full (full.rxLen - 1) = some [0x01, 0x02, 0x03]) := by decide
theorem test_witness_BytesReadOutAreTheBuffer :
    4 ≤ full.rxLen ∧ bufBytes full 4 = some [0x01, 0x02, 0x03, 0xD8] := by decide
theorem test_witness_RxEscCompletes : full.rxState = .receiving := by decide
theorem test_witness_RxXdataCompletes :
    ((rxAt cfg4 .escaping [0x01, 0x02, 0x03] 0xD8).rxState = .escaping ∧ (0x54 : Byte) ≠ 0x55 ∧
      fitsCap cfg4 3 = true ∧ cfg4.bufCap ≠ some 3) ∧
    ((rxAt cfg4 .escaping [0x01, 0x02, 0x03, 0xD8] 0x00).rxState = .escaping ∧ (0x5A : Byte) ≠ 0x55 ∧
      fitsCap cfg4 4 = true ∧ cfg4.bufCap = some 4) := by decide
theorem test_witness_RxDataCompletes :
    ((rxAt cfg4 .receiving [0x01, 0x02, 0x03] 0xD8).rxState = .receiving ∧ (0x51 : Byte) ≠ 0x55 ∧
      (0x51 : Byte) ≠ 0x5A ∧ (0x51 : Byte) ≠ 0x50 ∧ fitsCap cfg4 3 = true ∧ cfg4.bufCap ≠ some 3) ∧
    (full.rxState = .receiving ∧ (0xAA : Byte) ≠ 0x55 ∧ (0xAA : Byte) ≠ 0x5A ∧ (0xAA : Byte) ≠ 0x50 ∧
      fitsCap full.cfg full.rxLen = true ∧ full.cfg.bufCap = some full.rxLen) := by decide
theorem test_witness_RxStepIsTotal : full.Inv := inv_full
theorem test_witness_DropCausesExactly :
    (rxAt cfg0 .receiving [0x01, 0x02, 0x78] 0x00).rxLen = 3 ∧ full.rxLen = 4 ∧
    full.cfg.bufCap = some full.rxLen := by decide
theorem test_witness_DropIsSilent :
    (dropCause .rxStart full = some .abandoned ∧ ∃ t, exec .rxStart full = .next t) ∧
    (dropCause (.rxData 0x00) full = some .overflow ∧ ∃ t, exec (.rxData 0x00) full = .next t) ∧
    (dropCause .rxEnd (rxAt cfg0 .receiving [] 0x00) = some .emptyFrame ∧
      ∃ t, exec .rxEnd (rxAt cfg0 .receiving [] 0x00) = .next t) :=
  ⟨⟨by decide, _, rfl⟩, ⟨by decide, _, rfl⟩, by decide, _, rfl⟩
theorem test_witness_DeliversExactlyWhen :
    rxStep 0x5A full = .next delivered ∧
    (full.rxState = .receiving ∧ (0x5A : Byte) = 0x5A ∧ full.rxCrc = 0x00 ∧ 4 ≤ full.rxLen) ∧
    (∃ t, rxStep 0x5A State.reset = .next t) ∧ ¬ State.reset.rxState = .receiving :=
  ⟨step_full, by decide, ⟨_, rfl⟩, by decide⟩
theorem test_witness_DeliveredPacketHadItsOwnChecksum :
    full.Inv ∧ rxStep 0x5A full = .next delivered ∧ delivered.rxPkt ≠ full.rxPkt :=
  ⟨inv_full, step_full, by decide⟩
theorem test_witness_IdleIgnoresUntilStartMarker :
    State.reset.rxState = .idle ∧ (0x55 : Byte) ∉ [0x5A, 0x50, 0xAA] := by decide
/-- Two states that differ in a byte above `rx_len`, which RX cannot see. -/
theorem test_witness_RxSeesOnlyItsOwnState :
    RxSame full { full with rxBuf := full.rxBuf ++ [(4, 0x99)], acc := 0x11 } ∧
    rxStep 0x5A full = .next delivered := by
  refine ⟨⟨rfl, rfl, rfl, rfl, fun i => ?_⟩, step_full⟩
  by_cases h : i < 4
  · revert i
    decide
  · simp [memRead, full, rxAt, h]
theorem test_witness_StartMarkerResynchronises :
    full.cfg = (rxAt cfg4 .idle [] 0x00).cfg ∧ ∃ t, rxStream (0x55 :: [0x01, 0x5A]) full = .next t :=
  ⟨rfl, _, rfl⟩
theorem test_witness_RoundTripDelivers :
    3 ≤ ([0x01, 0x02, 0x1D] : List Byte).length ∧ fitsCap full.cfg (([0x01, 0x02, 0x1D] : List Byte).length + 1) := by
  decide
theorem test_witness_ShortFrameDeliversNothing : ([0x01, 0x02] : List Byte).length < 3 := by decide
theorem test_witness_LongFrameDeliversNothing :
    full.cfg.bufCap = some 4 ∧ 4 < ([0x01, 0x02, 0x03, 0x04] : List Byte).length + 1 := by decide
theorem test_witness_NonCanonicalEscapeIsAccepted :
    full.rxState = .receiving ∧ (reserved 0xFF = false ∧ (0xFF : Byte) ≠ 0xAA) ∧ reserved 0xAA = false := by decide
/-- 95_test_vectors P3: bit 0 of 20 inverted. -/
theorem test_witness_SingleBitErrorIsRejected :
    3 ≤ ([0x10, 0x20, 0x30, 0x40] : List Byte).length ∧ 0 < 2 ∧
    2 + 1 < (encodeFrame full.cfg.crcInit [0x10, 0x20, 0x30, 0x40]).length ∧
    (encodeFrame full.cfg.crcInit [0x10, 0x20, 0x30, 0x40])[2]? = some 0x20 ∧ 0 < 8 ∧
    (0x20 : Byte) ^^^ BitVec.twoPow 8 0 ≠ 0x55 ∧ (0x20 : Byte) ^^^ BitVec.twoPow 8 0 ≠ 0x5A := by decide
theorem test_witness_RxOperationsFrame : unitOf .rxEnd = .rx ∧ exec .rxEnd full = .next delivered := ⟨rfl, rfl⟩
theorem test_witness_TxOperationsFrame :
    unitOf .txClose = .tx ∧ ∃ t, exec .txClose (txAt 0x5A) = .next t := ⟨rfl, _, rfl⟩
theorem test_witness_BufferFrame :
    (exec .rxEnd full = .next delivered ∧ isAppend .rxEnd = false) ∧
    ((∃ t, exec (.rxData 0x00) full = .next t) ∧ full.cfg.bufCap = some full.rxLen) ∧
    ((∃ t, exec (.rxData 0x00) (rxAt cfg4 .receiving [0x01] 0x5E) = .next t) ∧
      (0 : Nat) ≠ (rxAt cfg4 .receiving [0x01] 0x5E).rxLen) :=
  ⟨⟨rfl, rfl⟩, ⟨⟨_, rfl⟩, rfl⟩, ⟨_, rfl⟩, by decide⟩
theorem test_witness_UnitsCommute :
    unitOf .rxEnd ≠ .block ∧ unitOf .txOpen ≠ .block ∧ unitOf .rxEnd ≠ unitOf .txOpen ∧
    exec .rxEnd full = .next delivered ∧ ∃ u, exec .txOpen delivered = .next u :=
  ⟨by decide, by decide, by decide, rfl, _, rfl⟩
theorem test_witness_ResetMeetsInvariant : cfg4.wf := by decide
theorem test_witness_StepKeepsInvariant :
    (rxPresented 0x5A full).Inv ∧ ∃ t, step (rxPresented 0x5A full) = .next t := ⟨inv_full_presented, _, rfl⟩
theorem test_witness_OnlyEncoderCommandsStop : (rxPresented 0x5A full).Inv := inv_full_presented
theorem test_witness_ParametersStayAndOutputsOnlyGrow :
    ∃ t, step (txPresented 0x100 State.reset) = .next t := ⟨_, rfl⟩
theorem test_witness_StepRunsTheRawByte :
    (rxPresented 0x5A full).resetIn = false ∧ (rxPresented 0x5A full).turns = .rx :: [] ∧
    (rxPresented 0x5A full).rxIn = 0x5A :: [] ∧ (rxPresented 0x5A full).pktPending = false := by decide
theorem test_witness_StepRunsTheCommand :
    ((txPresented 0x25A full).resetIn = false ∧ (txPresented 0x25A full).turns = .tx :: [] ∧
      (txPresented 0x25A full).txCmd = 0x25A :: [] ∧ (txPresented 0x25A full).txUntaken = 0) ∧
    (({ full with crcOp := [0x1D8], turns := [.crc] } : State).resetIn = false ∧
      ({ full with crcOp := [0x1D8], turns := [.crc] } : State).turns = .crc :: [] ∧
      ({ full with crcOp := [0x1D8], turns := [.crc] } : State).crcOp = 0x1D8 :: []) := by decide
theorem test_witness_ResetHasPriority : ({ rxPresented 0x5A full with resetIn := true } : State).resetIn = true := by
  decide
theorem test_witness_ReceiverWaitsForConsumer :
    ({ rxPresented 0x55 delivered with turns := [.rx, .consumer] } : State).resetIn = false ∧
    ({ rxPresented 0x55 delivered with turns := [.rx, .consumer] } : State).turns = .rx :: [.consumer] ∧
    ({ rxPresented 0x55 delivered with turns := [.rx, .consumer] } : State).pktPending = true ∧
    ({ delivered with turns := [.consumer] } : State).turns = .consumer :: [] := by decide
theorem test_witness_EncoderWaitsForSink :
    ({ txPresented 0x300 (txAt 0x00) with txUntaken := 1 } : State).resetIn = false ∧
    ({ txPresented 0x300 (txAt 0x00) with txUntaken := 1 } : State).turns = .tx :: [] ∧
    ({ txPresented 0x300 (txAt 0x00) with txUntaken := 1 } : State).txUntaken ≠ 0 ∧
    ({ txAt 0x00 with turns := [.sink] } : State).turns = .sink :: [] := by decide
theorem test_witness_StepWithNothingPresented :
    State.reset.resetIn = false ∧ State.reset.turns = [] ∧
    (({ State.reset with turns := [.rx] } : State).turns = .rx :: [] ∧ State.reset.rxIn = []) ∧
    (({ State.reset with turns := [.tx] } : State).turns = .tx :: [] ∧ State.reset.txCmd = []) ∧
    (({ State.reset with turns := [.crc] } : State).turns = .crc :: [] ∧ State.reset.crcOp = []) ∧
    ({ State.reset with turns := [.resetDriver] } : State).turns = .resetDriver :: [] := by decide

/-- The end marker of `full` presented, and to TX a BYTE that TxIdle refuses and an OPEN. -/
def twoInputs (ts : List Turn) : State := { full with rxIn := [0x5A], txCmd := [0x241, 0x100], turns := ts }

/-- What is observed of it: the packet delivered, the start marker emitted (95_test_vectors 3.4 and P5). -/
def twoOutputs : Observation where
  packets := [[0x01, 0x02, 0x03]]
  emitted := [0x55]
  rxState := .idle
  rxBytes := some []
  rxCrc := 0x00
  txState := .active
  txCrc := 0x00

/-- A run gets over although one of its commands is refused. -/
theorem test_run_with_refused_command_gets_over :
    ∃ t, run (twoInputs [.rx, .consumer, .tx, .tx, .sink]) t ∧ runOver t ∧ observe t = twoOutputs :=
  ⟨_, run_of_step rfl (run_of_step rfl (run_of_withdraw (.inl rfl) (run_of_step rfl (run_of_step rfl (run_refl _))))),
    ⟨⟨rfl, rfl, rfl, rfl⟩, rfl, rfl⟩, rfl⟩

/-- The same inputs under another schedule, the producer holding its refused command for one turn. -/
theorem test_run_under_another_schedule_gets_over :
    ∃ t, run (twoInputs [.tx, .rx, .tx, .tx, .sink, .consumer]) t ∧ runOver t ∧ observe t = twoOutputs :=
  ⟨_, run_of_hold (.inl rfl) (run_of_step rfl (run_of_withdraw (.inl rfl)
      (run_of_step rfl (run_of_step rfl (run_of_step rfl (run_refl _)))))),
    ⟨⟨rfl, rfl, rfl, rfl⟩, rfl, rfl⟩, rfl⟩

/-- A packet is pending, nothing is left to take, and the consumer has the last turn. -/
def consumerLast : State := { delivered with turns := [.consumer] }

/-- The state after the consumer's turn. -/
def consumerDone : State := { delivered with turns := [], pktPending := false }

theorem consumerLast_runs {t : State} (h : run consumerLast t) : t = consumerLast ∨ t = consumerDone :=
  (run_cases_of_step (t := consumerDone) rfl h).imp_right (run_of_exhausted rfl rfl)

theorem consumerLast_to_done : run consumerLast consumerDone := run_of_step rfl (run_refl _)

theorem test_witness_RunsGetOverAndAreObservedTheSame :
    full.Inv ∧
    (consumerKeepsDuty consumerLast ∧ sinkKeepsDuty consumerLast ∧ run consumerLast consumerDone ∧
      consumerDone.turns = [] ∧ inputsConsumed consumerDone) ∧
    ((twoInputs []).resetIn = false ∧ Turn.resetDriver ∉ [Turn.rx, .consumer, .tx, .tx, .sink] ∧
      Turn.resetDriver ∉ [Turn.tx, .rx, .tx, .tx, .sink, .consumer] ∧
      (∃ t, run { twoInputs [] with turns := [.rx, .consumer, .tx, .tx, .sink] } t ∧ runOver t) ∧
      ∃ u, run { twoInputs [] with turns := [.tx, .rx, .tx, .tx, .sink, .consumer] } u ∧ runOver u) := by
  refine ⟨inv_full, ⟨fun t h hp => ?_, fun t h hu => ?_, consumerLast_to_done, rfl, rfl, rfl, rfl, rfl⟩, rfl, by decide,
    by decide, ?_, ?_⟩
  · rcases consumerLast_runs h with rfl | rfl
    · exact ⟨_, consumerLast_to_done, rfl⟩
    · cases hp
  · rcases consumerLast_runs h with rfl | rfl <;> exact absurd rfl hu
  · obtain ⟨t, h, ho, _⟩ := test_run_with_refused_command_gets_over
    exact ⟨t, h, ho⟩
  · obtain ⟨t, h, ho, _⟩ := test_run_under_another_schedule_gets_over
    exact ⟨t, h, ho⟩

end Sys2Proof.Tests
end

section
/-! PROOF. Every step keeps the invariant, keeps the parameters, and only extends the outputs (O51, O53). A step
first takes a turn and then may perform one operation: each claim is one lemma about the turn, and one about
`exec` assembled from a lemma per state operation. -/

namespace Sys2Proof.Machine

/-! ### What taking a turn leaves unchanged -/

/-- The parameters, RX, TX, the packets and the emitted bytes are the same in both states, and no more is
outstanding at the consumer or the sink. What is presented, the schedule and `acc` may differ. -/
structure SameFrames (s t : State) : Prop where
  cfg : t.cfg = s.cfg
  rxState : t.rxState = s.rxState
  rxBuf : t.rxBuf = s.rxBuf
  rxLen : t.rxLen = s.rxLen
  rxCrc : t.rxCrc = s.rxCrc
  txState : t.txState = s.txState
  txCrc : t.txCrc = s.txCrc
  rxPkt : t.rxPkt = s.rxPkt
  txOut : t.txOut = s.txOut
  pktPending : t.pktPending = true → s.pktPending = true
  txUntaken : t.txUntaken ≤ s.txUntaken

theorem SameFrames.refl (s : State) : SameFrames s s :=
  ⟨rfl, rfl, rfl, rfl, rfl, rfl, rfl, rfl, rfl, id, le_rfl⟩

theorem SameFrames.trans {s t u : State} (h : SameFrames s t) (h' : SameFrames t u) : SameFrames s u where
  cfg := h'.cfg.trans h.cfg
  rxState := h'.rxState.trans h.rxState
  rxBuf := h'.rxBuf.trans h.rxBuf
  rxLen := h'.rxLen.trans h.rxLen
  rxCrc := h'.rxCrc.trans h.rxCrc
  txState := h'.txState.trans h.txState
  txCrc := h'.txCrc.trans h.txCrc
  rxPkt := h'.rxPkt.trans h.rxPkt
  txOut := h'.txOut.trans h.txOut
  pktPending := h.pktPending ∘ h'.pktPending
  txUntaken := h'.txUntaken.trans h.txUntaken

/-- The state a step goes on from, with or without an operation to perform in it. -/
def Fetched.state : Fetched → State
  | .run _ s => s
  | .wait s => s

theorem takeTurn_sameFrames (t : Turn) (s : State) : SameFrames s (takeTurn t s).state := by
  cases t with
  | rx =>
    rcases fetchRx_cases s with h | ⟨b, rest, -, -, h⟩
    · rw [takeTurn, h]
      exact SameFrames.refl s
    · rw [takeTurn, h]
      exact { SameFrames.refl s with }
  | tx =>
    rcases fetchTx_cases s with h | ⟨w, rest, -, -, h⟩
    · rw [takeTurn, h]
      exact SameFrames.refl s
    · rw [takeTurn, h]
      exact { SameFrames.refl s with }
  | crc =>
    rcases fetchCrc_cases s with h | ⟨w, rest, -, h⟩
    · rw [takeTurn, h]
      exact SameFrames.refl s
    · rw [takeTurn, h]
      exact { SameFrames.refl s with }
  | consumer => exact { SameFrames.refl s with pktPending := fun h => nomatch h }
  | sink => exact { SameFrames.refl s with txUntaken := Nat.sub_le _ _ }
  | resetDriver => exact { SameFrames.refl s with }

theorem fetch_sameFrames (s : State) : SameFrames s (fetch s).state := by
  rcases fetch_cases s with ⟨-, h⟩ | ⟨-, ⟨-, h⟩ | ⟨t, rest, -, h⟩⟩ <;> rw [h]
  · exact { SameFrames.refl s with }
  · exact SameFrames.refl s
  · have hpop : SameFrames s { s with turns := rest } := { SameFrames.refl s with }
    exact hpop.trans (takeTurn_sameFrames t _)

/-- All that a step can do: it takes a turn, and then performs one operation or none. -/
theorem step_cases {s t : State} (h : step s = .next t) :
    t = (fetch s).state ∨ ∃ i, exec i (fetch s).state = .next t := by
  cases hf : fetch s with
  | run i u => exact .inr ⟨i, (step_of_run hf).symm.trans h⟩
  | wait u => exact .inl (Host.Outcome.next.inj ((step_of_wait hf).symm.trans h)).symm

/-! ### The invariant under each state operation -/

/-- With the same buffer and the same length the valid bytes are the same. -/
theorem validBytes_of_buffer_eq {s t : State} {p : List Byte} (hp : bufBytes s s.rxLen = some p)
    (hb : t.rxBuf = s.rxBuf) (hl : t.rxLen = s.rxLen) : bufBytes t t.rxLen = some p := by
  rw [hl, ← hp]
  exact bufBytes_congr fun i _ => by simp only [memRead, hb, hl]

theorem inv_of_sameFrames {s t : State} (h : SameFrames s t) (hi : s.Inv) : t.Inv where
  cfgWf := h.cfg ▸ hi.cfgWf
  bufWf := h.rxBuf ▸ hi.bufWf
  bufInSpace := by simpa only [h.cfg, h.rxBuf] using hi.bufInSpace
  lenFits := by simpa only [h.cfg, h.rxLen] using hi.lenFits
  crcOfBuffer := by
    obtain ⟨p, hp, hc⟩ := hi.crcOfBuffer
    exact ⟨p, validBytes_of_buffer_eq hp h.rxBuf h.rxLen, by simpa only [h.cfg, h.rxState, h.rxCrc] using hc⟩
  rxIdle := by simpa only [h.cfg, h.rxState, h.rxLen, h.rxCrc] using hi.rxIdle
  txIdle := by simpa only [h.cfg, h.txState, h.txCrc] using hi.txIdle
  packets := by simpa only [h.cfg, h.rxPkt] using hi.packets
  pending := by simpa only [h.rxPkt] using hi.pending ∘ h.pktPending
  untaken := by simpa only [h.txOut] using h.txUntaken.trans hi.untaken

/-- No bytes fit in every buffer. -/
theorem fitsCap_zero (c : Config) : fitsCap c 0 = true := by
  unfold fitsCap
  cases c.bufCap <;> simp

theorem inv_openFrame {s : State} (hi : s.Inv) : (openFrame s).Inv :=
  { hi with
    lenFits := fitsCap_zero s.cfg
    crcOfBuffer := ⟨[], rfl, fun _ => rfl⟩
    rxIdle := fun h => nomatch h }

theorem inv_toIdle {s : State} (hi : s.Inv) : (toIdle s).Inv :=
  { hi with
    lenFits := fitsCap_zero s.cfg
    crcOfBuffer := ⟨[], rfl, fun h => absurd rfl h⟩
    rxIdle := fun _ => ⟨rfl, rfl⟩ }

theorem inv_escaping {s : State} (hr : s.rxState = .receiving) (hi : s.Inv) :
    State.Inv { s with rxState := .escaping } := by
  obtain ⟨p, hp, hc⟩ := hi.crcOfBuffer
  have hopen : s.rxState ≠ .idle := by simp [hr]
  exact { hi with
    crcOfBuffer := ⟨p, validBytes_of_buffer_eq hp rfl rfl, fun _ => hc hopen⟩
    rxIdle := fun h => nomatch h }

/-- A delivered packet has the buffer's length less one, so `rx_len` bounds it on both sides. -/
theorem inv_deliver {s : State} {p : List Byte} (hlen : 4 ≤ s.rxLen) (hp : bufBytes s (s.rxLen - 1) = some p)
    (hi : s.Inv) : (deliver p s).Inv := by
  obtain ⟨b, hb, hc⟩ := hi.crcOfBuffer
  have hl : p.length + 1 = s.rxLen := by
    rw [bufBytes_length hp]
    omega
  have hnew : hdrLen ≤ p.length ∧ fitsCap s.cfg (p.length + 1) = true :=
    ⟨by unfold hdrLen; omega, hl ▸ hi.lenFits⟩
  exact { hi with
    crcOfBuffer := ⟨b, validBytes_of_buffer_eq hb rfl rfl, hc⟩
    packets := fun q hq => by
      rcases List.mem_append.mp hq with hq | hq
      · exact hi.packets q hq
      · rwa [List.mem_singleton.mp hq]
    pending := fun _ => by simp }

/-- The state in which a decoded byte has been appended and accumulated (42_frame_receiver R70 and R71). -/
def appended (v : Byte) (s : State) : State :=
  { s with rxBuf := s.rxBuf.write s.rxLen v, rxLen := s.rxLen + 1, rxCrc := crc8Update s.rxCrc v,
           rxState := .receiving }

/-- An append leaves the bytes before it as they were and adds its own at the end. -/
theorem bufBytes_appended {v : Byte} {s : State} {p : List Byte} (hp : bufBytes s s.rxLen = some p) :
    bufBytes (appended v s) (appended v s).rxLen = some (p ++ [v]) := by
  have hold : bufBytes (appended v s) s.rxLen = bufBytes s s.rxLen :=
    bufBytes_congr fun i hlt => by
      simp [memRead, appended, hlt, Nat.lt_succ_of_lt hlt, Memory.read_write_other s.rxBuf v hlt.ne]
  have hnew : memRead (appended v s) s.rxLen = some v := by simp [memRead, appended]
  exact bufBytes_succ (hold.trans hp) hnew

theorem inv_appended {v : Byte} {s : State} (hopen : s.rxState ≠ .idle) (hsp : inSpace s.cfg s.rxLen = true)
    (hi : s.Inv) : (appended v s).Inv := by
  obtain ⟨p, hp, hc⟩ := hi.crcOfBuffer
  have hcrc : (appended v s).rxCrc = crc8From s.cfg.crcInit (p ++ [v]) := by
    rw [crc8From_snoc, ← hc hopen]
    rfl
  exact { hi with
    bufWf := Memory.wf_write s.rxLen v hi.bufWf
    bufInSpace := fun c hm => by
      rcases Memory.mem_write hm with rfl | hm
      · exact hsp
      · exact hi.bufInSpace c hm
    lenFits := hsp
    crcOfBuffer := ⟨p ++ [v], bufBytes_appended hp, fun _ => hcrc⟩
    rxIdle := fun h => nomatch h }

theorem inv_emit (bs : List Byte) {s : State} (hi : s.Inv) : (emit bs s).Inv := by
  obtain ⟨p, hp, hc⟩ := hi.crcOfBuffer
  exact { hi with
    crcOfBuffer := ⟨p, validBytes_of_buffer_eq hp rfl rfl, hc⟩
    untaken := by simpa using hi.untaken }

/-- TX's registers may take any values but an accumulator that is not clear in `TxIdle` (10_state R20). -/
theorem inv_setTx {st : TxState} {c : Byte} {s : State} (hc : st = .idle → c = s.cfg.crcInit) (hi : s.Inv) :
    State.Inv { s with txState := st, txCrc := c } := by
  obtain ⟨p, hp, hcrc⟩ := hi.crcOfBuffer
  exact { hi with
    crcOfBuffer := ⟨p, validBytes_of_buffer_eq hp rfl rfl, hcrc⟩
    txIdle := hc }

/-! ### The invariant under each unit's operations -/

theorem exec_rx_keeps_inv {i : Instr} {s t : State} (hu : unitOf i = .rx) (hi : s.Inv)
    (h : exec i s = .next t) : t.Inv := by
  rcases exec_rx_cases hu h with ⟨-, rfl⟩ | ⟨-, -, rfl⟩ | ⟨-, -, hend⟩ | ⟨-, hr, rfl⟩ | ⟨v, -, hopen, happ⟩
  · exact inv_openFrame hi
  · exact hi
  · rcases hend with ⟨-, rfl⟩ | ⟨-, hlen, p, hp, rfl⟩
    · exact inv_toIdle hi
    · exact inv_toIdle (inv_deliver hlen hp hi)
  · exact inv_escaping hr hi
  · rcases happ with ⟨-, rfl⟩ | ⟨-, hsp, rfl⟩
    · exact inv_toIdle hi
    · exact inv_appended hopen hsp hi

theorem exec_tx_keeps_inv {i : Instr} {s t : State} (hu : unitOf i = .tx) (hi : s.Inv)
    (h : exec i s = .next t) : t.Inv := by
  rcases exec_tx_cases hu h with ⟨-, -, rfl⟩ | ⟨b, -, ha, rfl⟩ | ⟨-, -, rfl⟩
  · exact inv_setTx (s := emit [sof] s) (fun h => nomatch h) (inv_emit _ hi)
  · exact inv_setTx (s := emit (esc b) s) (fun h => by simp [ha] at h) (inv_emit _ hi)
  · exact inv_setTx (s := emit (esc s.txCrc ++ [eof]) s) (fun _ => rfl) (inv_emit _ hi)

theorem exec_crc_sameFrames {i : Instr} {s t : State} (hu : unitOf i = .crc) (h : exec i s = .next t) :
    SameFrames s t := by
  rcases exec_crc_cases hu h with ⟨-, rfl⟩ | ⟨b, -, rfl⟩ <;> exact { SameFrames.refl s with }

/-- RESET is RX's return to `Idle`, TX's to `TxIdle`, and a clear of `acc`, which the invariant does not read. -/
theorem exec_reset_keeps_inv {s t : State} (hi : s.Inv) (h : exec .reset s = .next t) : t.Inv := by
  obtain rfl := Host.Outcome.next.inj h
  have hacc : SameFrames (toIdle s) { toIdle s with acc := s.cfg.crcInit } := { SameFrames.refl (toIdle s) with }
  exact inv_setTx (s := { toIdle s with acc := s.cfg.crcInit }) (fun _ => rfl)
    (inv_of_sameFrames hacc (inv_toIdle hi))

theorem exec_keeps_inv {i : Instr} {s t : State} (hi : s.Inv) (h : exec i s = .next t) : t.Inv := by
  cases hu : unitOf i with
  | rx => exact exec_rx_keeps_inv hu hi h
  | tx => exact exec_tx_keeps_inv hu hi h
  | crc => exact inv_of_sameFrames (exec_crc_sameFrames hu h) hi
  | block =>
    obtain rfl := unitOf_eq_block hu
    exact exec_reset_keeps_inv hi h

/-- Settles O51: taking the turn keeps the invariant, and so does the operation performed after it. -/
theorem stepKeepsInvariant : Obligations.StepKeepsInvariant := by
  intro s t hi h
  have hturn : (fetch s).state.Inv := inv_of_sameFrames (fetch_sameFrames s) hi
  rcases step_cases h with rfl | ⟨i, hexec⟩
  · exact hturn
  · exact exec_keeps_inv hturn hexec

/-! ### The parameters and the outputs -/

/-- The parameters are the same in `t`, and its packets and emitted bytes begin with those of `s`. -/
structure OutputsExtend (s t : State) : Prop where
  cfg : t.cfg = s.cfg
  rxPkt : s.rxPkt <+: t.rxPkt
  txOut : s.txOut <+: t.txOut

theorem OutputsExtend.refl (s : State) : OutputsExtend s s := ⟨rfl, List.prefix_rfl, List.prefix_rfl⟩

theorem OutputsExtend.trans {s t u : State} (h : OutputsExtend s t) (h' : OutputsExtend t u) :
    OutputsExtend s u :=
  ⟨h'.cfg.trans h.cfg, h.rxPkt.trans h'.rxPkt, h.txOut.trans h'.txOut⟩

theorem OutputsExtend.of_sameFrames {s t : State} (h : SameFrames s t) : OutputsExtend s t :=
  ⟨h.cfg, h.rxPkt ▸ List.prefix_rfl, h.txOut ▸ List.prefix_rfl⟩

theorem exec_rx_outputsExtend {i : Instr} {s t : State} (hu : unitOf i = .rx) (h : exec i s = .next t) :
    OutputsExtend s t := by
  rcases exec_rx_cases hu h with ⟨-, rfl⟩ | ⟨-, -, rfl⟩ | ⟨-, -, hend⟩ | ⟨-, -, rfl⟩ | ⟨v, -, -, happ⟩
  · exact { OutputsExtend.refl s with }
  · exact OutputsExtend.refl _
  · rcases hend with ⟨-, rfl⟩ | ⟨-, -, p, -, rfl⟩
    · exact { OutputsExtend.refl s with }
    · exact { OutputsExtend.refl s with rxPkt := List.prefix_append s.rxPkt [p] }
  · exact { OutputsExtend.refl s with }
  · rcases happ with ⟨-, rfl⟩ | ⟨-, -, rfl⟩ <;> exact { OutputsExtend.refl s with }

theorem exec_tx_outputsExtend {i : Instr} {s t : State} (hu : unitOf i = .tx) (h : exec i s = .next t) :
    OutputsExtend s t := by
  have hgrow (bs : List Byte) : s.txOut <+: s.txOut ++ bs := List.prefix_append _ bs
  rcases exec_tx_cases hu h with ⟨-, -, rfl⟩ | ⟨b, -, -, rfl⟩ | ⟨-, -, rfl⟩
  · exact { OutputsExtend.refl s with txOut := hgrow [sof] }
  · exact { OutputsExtend.refl s with txOut := hgrow (esc b) }
  · exact { OutputsExtend.refl s with txOut := hgrow (esc s.txCrc ++ [eof]) }

theorem exec_outputsExtend {i : Instr} {s t : State} (h : exec i s = .next t) : OutputsExtend s t := by
  cases hu : unitOf i with
  | rx => exact exec_rx_outputsExtend hu h
  | tx => exact exec_tx_outputsExtend hu h
  | crc => exact .of_sameFrames (exec_crc_sameFrames hu h)
  | block =>
    obtain rfl := unitOf_eq_block hu
    obtain rfl := Host.Outcome.next.inj h
    exact ⟨rfl, List.prefix_rfl, List.prefix_rfl⟩

theorem step_outputsExtend {s t : State} (h : step s = .next t) : OutputsExtend s t := by
  have hturn : OutputsExtend s (fetch s).state := .of_sameFrames (fetch_sameFrames s)
  rcases step_cases h with rfl | ⟨i, hexec⟩
  · exact hturn
  · exact hturn.trans (exec_outputsExtend hexec)

/-- Settles O53: neither taking the turn nor the operation after it writes `cfg` or removes an output. -/
theorem parametersStayAndOutputsOnlyGrow : Obligations.ParametersStayAndOutputsOnlyGrow := by
  intro s t h
  obtain ⟨hcfg, hpkt, hout⟩ := step_outputsExtend h
  exact ⟨hcfg, hpkt, hout⟩

end Sys2Proof.Machine
end

section
/-! PROOF. What the state of the block is made of and who may see or write it: the reset state (O50), the bytes read
out of the buffer (O28), what the operations of RX and of TX leave unchanged (O45, O46), and what they depend on
(O24, O38). -/

namespace Sys2Proof.Machine

/-! ### The state after reset -/

/-- Settles O50: after reset no byte is listed, nothing is delivered or emitted, and both accumulators are clear. -/
theorem resetMeetsInvariant : Obligations.ResetMeetsInvariant := fun c hc =>
  { cfgWf := hc
    bufWf := Memory.wf_nil
    bufInSpace := fun _ hm => nomatch hm
    lenFits := fitsCap_zero c
    crcOfBuffer := ⟨[], rfl, fun _ => rfl⟩
    rxIdle := fun _ => ⟨rfl, rfl⟩
    txIdle := fun _ => rfl
    packets := fun _ hm => nomatch hm
    pending := fun h => nomatch h
    untaken := le_rfl }

/-! ### Reading the buffer -/

theorem memRead_of_lt {s : State} {i : Nat} (h : i < s.rxLen) : memRead s i = s.rxBuf.read i := if_pos h

/-- An empty buffer has no readable byte, whatever is stored in it (10_state R13). -/
theorem memRead_of_empty {s : State} (h : s.rxLen = 0) (i : Nat) : memRead s i = none := by simp [memRead, h]

theorem memRead_appended (v : Byte) (s : State) (i : Nat) :
    memRead (appended v s) i = if i = s.rxLen then some v else memRead s i := by
  by_cases hi : i = s.rxLen
  · simp [memRead, appended, hi]
  · have hlt : i < s.rxLen + 1 ↔ i < s.rxLen := by omega
    simp [memRead, appended, hi, hlt, Memory.read_write_other s.rxBuf v hi]

/-- All that reading out one byte more can give. -/
theorem bufBytes_succ_eq_snoc {s : State} {n : Nat} {p : List Byte} {v : Byte} :
    bufBytes s (n + 1) = some (p ++ [v]) ↔ bufBytes s n = some p ∧ memRead s n = some v := by
  refine ⟨fun h => ?_, fun ⟨hp, hv⟩ => bufBytes_succ hp hv⟩
  unfold bufBytes at h
  split at h
  · next q w hq hw =>
    obtain ⟨rfl, hwv⟩ := List.append_inj' (Option.some.inj h) rfl
    exact ⟨hq, hw.trans (congrArg some (List.singleton_inj.mp hwv))⟩
  · cases h

/-- The first `n` bytes of `p ++ [v]`, `p` of length `n`, are those of `p`, and the next is `v`. -/
theorem snoc_getElem?_iff {p : List Byte} {v : Byte} {n : Nat} {f : Nat → Option Byte} (hl : p.length = n) :
    (∀ k < n + 1, (p ++ [v])[k]? = f k) ↔ (∀ k < n, p[k]? = f k) ∧ f n = some v := by
  have hlast : (p ++ [v])[n]? = some v := hl ▸ List.getElem?_concat_length
  have hinit (k : Nat) (hk : k < n) : (p ++ [v])[k]? = p[k]? := List.getElem?_append_left (hl ▸ hk)
  rw [Nat.forall_lt_succ_right, hlast, eq_comm (a := some v)]
  exact and_congr_left' (forall₂_congr fun k hk => by rw [hinit k hk])

/-- Settles O28, by induction on the number of bytes read out: the last one is `rx_buf[n]`. -/
theorem bytesReadOutAreTheBuffer : Obligations.BytesReadOutAreTheBuffer := by
  intro s n
  induction n with
  | zero =>
    intro p _
    simp [bufBytes]
  | succ n ih =>
    intro p hn
    rcases List.eq_nil_or_concat' p with rfl | ⟨q, v, rfl⟩
    · exact iff_of_false (fun h => nomatch bufBytes_length h) (fun h => nomatch h.1)
    · have hlen : (q ++ [v]).length = n + 1 ↔ q.length = n := by simp
      rw [bufBytes_succ_eq_snoc, memRead_of_lt hn, ih q (Nat.le_of_lt hn), hlen, and_assoc]
      exact and_congr_right fun hl => (snoc_getElem?_iff hl).symm

/-! ### What an operation leaves unchanged -/

/-- RX's operations write RX's registers and buffer, and what the consumer is given, and nothing else. -/
theorem exec_rx_writes {i : Instr} {s t : State} (hu : unitOf i = .rx) (h : exec i s = .next t) :
    t = { s with rxState := t.rxState, rxBuf := t.rxBuf, rxLen := t.rxLen, rxCrc := t.rxCrc, rxPkt := t.rxPkt,
                 pktPending := t.pktPending } := by
  rcases exec_rx_cases hu h with ⟨-, rfl⟩ | ⟨-, -, rfl⟩ | ⟨-, -, hend⟩ | ⟨-, -, rfl⟩ | ⟨v, -, -, happ⟩
  · rfl
  · rfl
  · rcases hend with ⟨-, rfl⟩ | ⟨-, -, p, -, rfl⟩ <;> rfl
  · rfl
  · rcases happ with ⟨-, rfl⟩ | ⟨-, -, rfl⟩ <;> rfl

/-- Only RX.END delivers (42_frame_receiver R73). -/
theorem exec_rx_keeps_packets {i : Instr} {s t : State} (hu : unitOf i = .rx) (hne : i ≠ .rxEnd)
    (h : exec i s = .next t) : t.rxPkt = s.rxPkt ∧ t.pktPending = s.pktPending := by
  rcases exec_rx_cases hu h with ⟨-, rfl⟩ | ⟨-, -, rfl⟩ | ⟨hi, -, -⟩ | ⟨-, -, rfl⟩ | ⟨v, -, -, happ⟩
  · exact ⟨rfl, rfl⟩
  · exact ⟨rfl, rfl⟩
  · exact absurd hi hne
  · exact ⟨rfl, rfl⟩
  · rcases happ with ⟨-, rfl⟩ | ⟨-, -, rfl⟩ <;> exact ⟨rfl, rfl⟩

/-- Settles O45: RX's operations write no field of another unit, and only RX.END writes the packets. -/
theorem rxOperationsFrame : Obligations.RxOperationsFrame := by
  intro i s t hu h
  have hpkt (hne : i ≠ .rxEnd) := exec_rx_keeps_packets hu hne h
  rw [exec_rx_writes hu h]
  exact ⟨rfl, rfl, rfl, rfl, rfl, rfl, rfl, rfl, rfl, rfl, rfl, hpkt⟩

/-- TX's operations write TX's registers, and what the sink is given, and nothing else. -/
theorem exec_tx_writes {i : Instr} {s t : State} (hu : unitOf i = .tx) (h : exec i s = .next t) :
    t = { s with txState := t.txState, txCrc := t.txCrc, txOut := t.txOut, txUntaken := t.txUntaken } := by
  rcases exec_tx_cases hu h with ⟨-, -, rfl⟩ | ⟨b, -, -, rfl⟩ | ⟨-, -, rfl⟩ <;> rfl

/-- Settles O46: TX's operations write no field of another unit and no packet. -/
theorem txOperationsFrame : Obligations.TxOperationsFrame := by
  intro i s t hu h
  rw [exec_tx_writes hu h]
  exact ⟨rfl, rfl, rfl, rfl, rfl, rfl, rfl, rfl, rfl, rfl, rfl, rfl, rfl⟩

/-! ### What TX depends on -/

/-- Settles O24: what each command tests, emits and writes is a function of `tx_state`, `tx_crc` and `CRC_INIT`. -/
theorem txSeesOnlyItsOwnState : Obligations.TxSeesOnlyItsOwnState := by
  intro i s u t hu ⟨hcfg, hst, hcrc⟩ h
  have hinit : s.cfg.crcInit = u.cfg.crcInit := congrArg Config.crcInit hcfg
  rcases exec_tx_cases hu h with ⟨rfl, hs, rfl⟩ | ⟨b, rfl, hs, rfl⟩ | ⟨rfl, hs, rfl⟩
  · exact ⟨_, [sof], whenTx_eq_next.mpr ⟨hst ▸ hs, rfl⟩, ⟨hcfg, rfl, hinit⟩, rfl, rfl⟩
  · have hupd : crc8Update s.txCrc b = crc8Update u.txCrc b := congrArg (crc8Update · b) hcrc
    exact ⟨_, esc b, whenTx_eq_next.mpr ⟨hst ▸ hs, rfl⟩, ⟨hcfg, hst, hupd⟩, rfl, rfl⟩
  · have hout : u.txOut ++ (esc u.txCrc ++ [eof]) = u.txOut ++ (esc s.txCrc ++ [eof]) := by rw [hcrc]
    exact ⟨_, esc s.txCrc ++ [eof], whenTx_eq_next.mpr ⟨hst ▸ hs, rfl⟩, ⟨hcfg, rfl, hinit⟩, rfl, hout⟩

/-! ### What RX depends on -/

theorem RxSame.bufBytes_eq {s u : State} (h : RxSame s u) (n : Nat) : bufBytes s n = bufBytes u n :=
  bufBytes_congr fun i _ => h.bytes i

theorem RxSame.bufFull_eq {s u : State} (h : RxSame s u) : bufFull s = bufFull u := by
  simp only [bufFull, h.cfg, h.rxLen]

/-- With empty buffers RX sees registers only, whatever is stored (10_state R20). -/
theorem rxSame_of_empty {s u : State} (hs : s.rxLen = 0) (hu : u.rxLen = 0) (hcfg : s.cfg = u.cfg)
    (hst : s.rxState = u.rxState) (hcrc : s.rxCrc = u.rxCrc) : RxSame s u where
  cfg := hcfg
  rxState := hst
  rxLen := hs.trans hu.symm
  rxCrc := hcrc
  bytes i := (memRead_of_empty hs i).trans (memRead_of_empty hu i).symm

theorem rxSame_openFrame {s u : State} (h : s.cfg = u.cfg) : RxSame (openFrame s) (openFrame u) :=
  rxSame_of_empty rfl rfl h rfl (congrArg Config.crcInit h)

theorem rxSame_toIdle {s u : State} (h : s.cfg = u.cfg) : RxSame (toIdle s) (toIdle u) :=
  rxSame_of_empty rfl rfl h rfl (congrArg Config.crcInit h)

theorem rxSame_appended (v : Byte) {s u : State} (h : RxSame s u) : RxSame (appended v s) (appended v u) where
  cfg := h.cfg
  rxState := rfl
  rxLen := congrArg (· + 1) h.rxLen
  rxCrc := congrArg (crc8Update · v) h.rxCrc
  bytes i := by rw [memRead_appended, memRead_appended, h.rxLen, h.bytes i]

/-- Where RX went from `s` to `t`, the outcome `o` from `u` is a state RX cannot tell apart from `t`, with the same
packets delivered on the way. -/
def RxFollows (s u t : State) (o : Host.Outcome State Fault Refusal) : Prop :=
  ∃ t' new, o = .next t' ∧ RxSame t t' ∧ t.rxPkt = s.rxPkt ++ new ∧ t'.rxPkt = u.rxPkt ++ new

/-- Where neither side delivers, only the states reached have to agree. -/
theorem RxFollows.silent {s u t t' : State} {o : Host.Outcome State Fault Refusal} (ho : o = .next t')
    (h : RxSame t t') (hs : t.rxPkt = s.rxPkt) (hu : t'.rxPkt = u.rxPkt) : RxFollows s u t o :=
  ⟨t', [], ho, h, by simp [hs], by simp [hu]⟩

/-- An operation that is selected is performed (30_encoding R38). -/
theorem RxFollows.of_selected {s u t : State} {c : Bool} {o : Host.Outcome State Fault Refusal} (hc : c = true)
    (h : RxFollows s u t o) : RxFollows s u t (whenSelected c o) := by
  subst hc
  exact h

theorem acceptByte_follows {v : Byte} {s u t : State} (hsame : RxSame s u) (h : acceptByte v s = .next t) :
    RxFollows s u t (acceptByte v u) := by
  rcases acceptByte_eq_next.mp h with ⟨hfull, rfl⟩ | ⟨hfull, hspace, rfl⟩
  · have hu : acceptByte v u = .next (toIdle u) :=
      acceptByte_eq_next.mpr (.inl ⟨hsame.bufFull_eq ▸ hfull, rfl⟩)
    exact .silent hu (rxSame_toIdle hsame.cfg) rfl rfl
  · have hspace' : inSpace u.cfg u.rxLen = true := hsame.cfg ▸ hsame.rxLen ▸ hspace
    have hu : acceptByte v u = .next (appended v u) :=
      acceptByte_eq_next.mpr (.inr ⟨hsame.bufFull_eq ▸ hfull, hspace', rfl⟩)
    exact .silent hu (rxSame_appended v hsame) rfl rfl

theorem execRxEnd_follows {s u t : State} (hsame : RxSame s u) (h : execRxEnd s = .next t) :
    RxFollows s u t (execRxEnd u) := by
  obtain ⟨hst, hend⟩ := execRxEnd_eq_next.mp h
  rw [hsame.rxState] at hst
  rw [hsame.rxCrc, hsame.rxLen, hsame.bufBytes_eq] at hend
  rcases hend with ⟨hdrop, rfl⟩ | ⟨hres, hlen, p, hp, rfl⟩
  · have hu : execRxEnd u = .next (toIdle u) := execRxEnd_eq_next.mpr ⟨hst, .inl ⟨hdrop, rfl⟩⟩
    exact .silent hu (rxSame_toIdle hsame.cfg) rfl rfl
  · have hu : execRxEnd u = .next (toIdle (deliver p u)) :=
      execRxEnd_eq_next.mpr ⟨hst, .inr ⟨hres, hlen, p, hp, rfl⟩⟩
    exact ⟨_, [p], hu, rxSame_toIdle (s := deliver p s) (u := deliver p u) hsame.cfg, rfl, rfl⟩

/-- From states RX cannot tell apart each of its operations does the same. -/
theorem exec_rx_follows {i : Instr} {s u t : State} (hu : unitOf i = .rx) (hsame : RxSame s u)
    (h : exec i s = .next t) : RxFollows s u t (exec i u) := by
  cases i <;> simp only [unitOf, reduceCtorEq] at hu
  case rxStart =>
    obtain rfl := Host.Outcome.next.inj ((execRxStart_eq s).symm.trans h)
    exact .silent (execRxStart_eq u) (rxSame_openFrame hsame.cfg) rfl rfl
  case rxIgnore =>
    obtain ⟨hsel, hnext⟩ := whenSelected_eq_next.mp h
    obtain rfl := Host.Outcome.next.inj hnext
    exact .of_selected (hsame.rxState ▸ hsel) (.silent rfl hsame rfl rfl)
  case rxEnd => exact execRxEnd_follows hsame h
  case rxEsc =>
    obtain ⟨hsel, hnext⟩ := whenSelected_eq_next.mp h
    obtain rfl := Host.Outcome.next.inj hnext
    have hesc : RxSame { s with rxState := .escaping } { u with rxState := .escaping } :=
      { hsame with rxState := rfl }
    exact .of_selected (hsame.rxState ▸ hsel) (.silent rfl hesc rfl rfl)
  case rxXdata b =>
    obtain ⟨hsel, hacc⟩ := whenSelected_eq_next.mp h
    exact .of_selected (hsame.rxState ▸ hsel) (acceptByte_follows hsame hacc)
  case rxData b =>
    obtain ⟨hsel, hacc⟩ := whenSelected_eq_next.mp h
    exact .of_selected (hsame.rxState ▸ hsel) (acceptByte_follows hsame hacc)

theorem rxStep_follows {b : Byte} {s u t : State} (hsame : RxSame s u) (h : rxStep b s = .next t) :
    RxFollows s u t (rxStep b u) := by
  rw [rxStep, ← hsame.rxState]
  exact exec_rx_follows (unitOf_decodeRx s.rxState b) hsame h

/-- Settles O38: both states select the same operation of RX, and it does the same in both. -/
theorem rxSeesOnlyItsOwnState : Obligations.RxSeesOnlyItsOwnState := fun _ _ _ _ hsame h =>
  rxStep_follows hsame h

end Sys2Proof.Machine
end

section
/-! PROOF. Which part of the state an operation reads and writes: the buffer bytes it leaves (O47), and its unit's own
fields alone, so operations of different units may change places (O48). -/

namespace Sys2Proof.Machine

/-! ### The buffer's bytes -/

/-- The CRC8 unit's operations write its accumulator and nothing else. -/
theorem exec_crc_writes {i : Instr} {s t : State} (hu : unitOf i = .crc) (h : exec i s = .next t) :
    t = { s with acc := t.acc } := by
  rcases exec_crc_cases hu h with ⟨-, rfl⟩ | ⟨b, -, rfl⟩ <;> rfl

theorem exec_rx_keeps_byte {i : Instr} {s t : State} {a : Nat} (hu : unitOf i = .rx) (h : exec i s = .next t)
    (ha : isAppend i = false ∨ s.cfg.bufCap = some s.rxLen ∨ a ≠ s.rxLen) : t.rxBuf.read a = s.rxBuf.read a := by
  rcases exec_rx_cases hu h with ⟨-, rfl⟩ | ⟨-, -, rfl⟩ | ⟨-, -, hend⟩ | ⟨-, -, rfl⟩ | ⟨v, happ, -, hacc⟩
  · rfl
  · rfl
  · rcases hend with ⟨-, rfl⟩ | ⟨-, -, p, -, rfl⟩ <;> rfl
  · rfl
  · rcases hacc with ⟨-, rfl⟩ | ⟨hfull, -, rfl⟩
    · rfl
    · have hne : a ≠ s.rxLen := by
        rcases ha with hno | hcap | hne
        · simp [happ] at hno
        · simp [bufFull_iff.mpr hcap] at hfull
        · exact hne
      exact Memory.read_write_other s.rxBuf v hne

/-- Settles O47: the one store of any operation is that of an append, at `rx_len`. -/
theorem bufferFrame : Obligations.BufferFrame := by
  intro i s t a h ha
  cases hu : unitOf i with
  | rx => exact exec_rx_keeps_byte hu h ha
  | tx => rw [exec_tx_writes hu h]
  | crc => rw [exec_crc_writes hu h]
  | block =>
    obtain rfl := unitOf_eq_block hu
    obtain rfl := Host.Outcome.next.inj h
    rfl

/-! ### An operation sees and writes its own unit only -/

/-- `o` with the parameters, and with what the operations of unit `n` read and write, taken from `s`. RESET acts on the
whole block (60_exceptions R93). -/
def State.withUnit (n : UnitName) (o s : State) : State :=
  match n with
  | .rx => { o with cfg := s.cfg, rxState := s.rxState, rxBuf := s.rxBuf, rxLen := s.rxLen, rxCrc := s.rxCrc,
                    rxPkt := s.rxPkt, pktPending := s.pktPending }
  | .tx => { o with cfg := s.cfg, txState := s.txState, txCrc := s.txCrc, txOut := s.txOut,
                    txUntaken := s.txUntaken }
  | .crc => { o with cfg := s.cfg, acc := s.acc }
  | .block => s

theorem State.withUnit_self (n : UnitName) (s : State) : State.withUnit n s s = s := by
  cases n <;> rfl

/-- The fields of one unit are no other unit's. -/
theorem State.withUnit_other {n m : UnitName} {s a : State} (hn : n ≠ .block) (hm : m ≠ .block) (hne : n ≠ m)
    (hcfg : a.cfg = s.cfg) : State.withUnit m s (State.withUnit n s a) = s := by
  cases n <;> cases m <;> simp_all [State.withUnit]

theorem State.withUnit_comm {n m : UnitName} {s a b : State} (hn : n ≠ .block) (hm : m ≠ .block) (hne : n ≠ m)
    (hcfg : a.cfg = b.cfg) :
    State.withUnit n (State.withUnit m s a) b = State.withUnit m (State.withUnit n s b) a := by
  cases n <;> cases m <;> simp_all [State.withUnit]

theorem exec_writes_own_unit {i : Instr} {s t : State} (h : exec i s = .next t) :
    State.withUnit (unitOf i) s t = t := by
  cases hu : unitOf i with
  | rx => rw [exec_rx_writes hu h]; rfl
  | tx => rw [exec_tx_writes hu h]; rfl
  | crc => rw [exec_crc_writes hu h]; rfl
  | block => rfl

theorem acceptByte_withUnit {v : Byte} {s t : State} (o : State) (h : acceptByte v s = .next t) :
    acceptByte v (State.withUnit .rx o s) = .next (State.withUnit .rx o t) := by
  rcases acceptByte_eq_next.mp h with ⟨hfull, rfl⟩ | ⟨hfull, hspace, rfl⟩
  · exact acceptByte_eq_next.mpr (.inl ⟨hfull, rfl⟩)
  · exact acceptByte_eq_next.mpr (.inr ⟨hfull, hspace, rfl⟩)

theorem execRxEnd_withUnit {s t : State} (o : State) (h : execRxEnd s = .next t) :
    execRxEnd (State.withUnit .rx o s) = .next (State.withUnit .rx o t) := by
  have hbytes (n : Nat) : bufBytes (State.withUnit .rx o s) n = bufBytes s n := bufBytes_congr fun _ _ => rfl
  obtain ⟨hst, ⟨hdrop, rfl⟩ | ⟨hres, hlen, p, hp, rfl⟩⟩ := execRxEnd_eq_next.mp h
  · exact execRxEnd_eq_next.mpr ⟨hst, .inl ⟨hdrop, rfl⟩⟩
  · exact execRxEnd_eq_next.mpr ⟨hst, .inr ⟨hres, hlen, p, (hbytes _).trans hp, rfl⟩⟩

theorem exec_rx_withUnit {i : Instr} {s t : State} (o : State) (hu : unitOf i = .rx) (h : exec i s = .next t) :
    exec i (State.withUnit .rx o s) = .next (State.withUnit .rx o t) := by
  cases i <;> simp only [unitOf, reduceCtorEq] at hu
  case rxStart =>
    obtain rfl := Host.Outcome.next.inj ((execRxStart_eq s).symm.trans h)
    exact execRxStart_eq _
  case rxEnd => exact execRxEnd_withUnit o h
  case rxIgnore | rxEsc =>
    obtain ⟨hsel, hnext⟩ := whenSelected_eq_next.mp h
    obtain rfl := Host.Outcome.next.inj hnext
    exact whenSelected_eq_next.mpr ⟨hsel, rfl⟩
  case rxXdata b | rxData b =>
    obtain ⟨hsel, hacc⟩ := whenSelected_eq_next.mp h
    exact whenSelected_eq_next.mpr ⟨hsel, acceptByte_withUnit o hacc⟩

theorem exec_tx_withUnit {i : Instr} {s t : State} (o : State) (hu : unitOf i = .tx) (h : exec i s = .next t) :
    exec i (State.withUnit .tx o s) = .next (State.withUnit .tx o t) := by
  rcases exec_tx_cases hu h with ⟨rfl, hst, rfl⟩ | ⟨b, rfl, hst, rfl⟩ | ⟨rfl, hst, rfl⟩ <;>
    exact whenTx_eq_next.mpr ⟨hst, rfl⟩

/-- What an operation does is the same whatever the fields of the other units hold (20_memory R32). -/
theorem exec_withUnit {i : Instr} {s t : State} (o : State) (h : exec i s = .next t) :
    exec i (State.withUnit (unitOf i) o s) = .next (State.withUnit (unitOf i) o t) := by
  cases hu : unitOf i with
  | rx => exact exec_rx_withUnit o hu h
  | tx => exact exec_tx_withUnit o hu h
  | crc => rcases exec_crc_cases hu h with ⟨rfl, rfl⟩ | ⟨b, rfl, rfl⟩ <;> rfl
  | block => exact h

/-- Settles O48: each operation neither sees nor writes the fields that the other changes. -/
theorem unitsCommute : Obligations.UnitsCommute := by
  intro i j s t u hi hj hij hst htu
  have hcfg : t.cfg = s.cfg := (exec_outputsExtend hst).cfg
  have hcfg' : u.cfg = s.cfg := (exec_outputsExtend htu).cfg.trans hcfg
  have hwi : State.withUnit (unitOf i) s t = t := exec_writes_own_unit hst
  have hwj : State.withUnit (unitOf j) t u = u := exec_writes_own_unit htu
  have hsees : State.withUnit (unitOf j) s t = s := by
    simpa only [hwi] using State.withUnit_other hi hj hij hcfg
  refine ⟨State.withUnit (unitOf j) s u, ?_, ?_⟩
  · simpa only [hsees] using exec_withUnit s htu
  · have h := exec_withUnit (State.withUnit (unitOf j) s u) hst
    rwa [State.withUnit_comm hi hj hij hcfg', State.withUnit_self,
      State.withUnit_comm hi hj hij (hcfg'.trans hcfg.symm), hwi, hwj] at h

end Sys2Proof.Machine
end

section
/-! PROOF. What a step does at the turn of RX, of TX and of the CRC8 unit where it has an input and waits for nobody
(O55). -/

namespace Sys2Proof.Machine

theorem step_of_turn {s u : State} {τ : Turn} {ts : List Turn} {i : Instr} (hr : s.resetIn = false)
    (ht : s.turns = τ :: ts) (h : takeTurn τ { s with turns := ts } = .run i u) : step s = exec i u :=
  step_of_run (by
    rw [fetch, if_neg (by simp [hr]), ht]
    exact h)

theorem step_at_rx_turn {s : State} {b : Byte} {rest : List Byte} {ts : List Turn} (hr : s.resetIn = false)
    (ht : s.turns = .rx :: ts) (hin : s.rxIn = b :: rest) (hp : s.pktPending = false) :
    step s = exec (decodeRx s.rxState b) { s with turns := ts, rxIn := rest } :=
  step_of_turn hr ht (by simp [takeTurn, fetchRx, hin, hp])

theorem step_at_tx_turn {s : State} {w : TxWord} {rest : List TxWord} {ts : List Turn} (hr : s.resetIn = false)
    (ht : s.turns = .tx :: ts) (hcmd : s.txCmd = w :: rest) (hu : s.txUntaken = 0) :
    step s = exec (decodeTx w) { s with turns := ts, txCmd := rest } :=
  step_of_turn hr ht (by simp [takeTurn, fetchTx, hcmd, hu])

theorem step_at_crc_turn {s : State} {w : CrcWord} {rest : List CrcWord} {ts : List Turn} (hr : s.resetIn = false)
    (ht : s.turns = .crc :: ts) (hop : s.crcOp = w :: rest) :
    step s = exec (decodeCrc w) { s with turns := ts, crcOp := rest } :=
  step_of_turn hr ht (by simp [takeTurn, fetchCrc, hop])

/-- Settles O55: at its turn a unit that waits for nobody takes the first of its commands. -/
theorem stepRunsTheCommand : Obligations.StepRunsTheCommand :=
  ⟨fun _ _ _ _ hr ht hcmd hu => step_at_tx_turn hr ht hcmd hu, fun _ _ _ _ hr ht hop => step_at_crc_turn hr ht hop⟩

end Sys2Proof.Machine
end

section
/-! PROOF. Every run gets over under some schedule (O60, first part): while a run is not over some turn takes work off
it, whatever the turns after. -/

namespace Sys2Proof.Machine

/-! ### Which operations complete -/

/-- Within `BUF_CAP` taking a decoded byte never faults. -/
theorem acceptByte_completes {s : State} (v : Byte) (h : fitsCap s.cfg s.rxLen = true) :
    ∃ t, acceptByte v s = .next t := by
  cases hfull : bufFull s with
  | true => exact ⟨_, acceptByte_eq_next.mpr (.inl ⟨hfull, rfl⟩)⟩
  | false => exact ⟨_, acceptByte_eq_next.mpr (.inr ⟨hfull, inSpace_of_fitsCap h hfull, rfl⟩)⟩

/-- What can be read out can be read out without its last byte. -/
theorem bufBytes_pred {s : State} {n : Nat} {p : List Byte} (h : bufBytes s n = some p) :
    ∃ q, bufBytes s (n - 1) = some q := by
  cases n with
  | zero => exact ⟨p, h⟩
  | succ n =>
    rcases List.eq_nil_or_concat' p with rfl | ⟨q, v, rfl⟩
    · exact nomatch bufBytes_length h
    · exact ⟨q, (bufBytes_succ_eq_snoc.mp h).1⟩

theorem execRxEnd_completes {s : State} {p : List Byte} (hst : s.rxState = .receiving)
    (hp : bufBytes s s.rxLen = some p) : ∃ t, execRxEnd s = .next t := by
  obtain ⟨q, hq⟩ := bufBytes_pred hp
  by_cases h : s.rxCrc = 0x00 ∧ 4 ≤ s.rxLen
  · exact ⟨_, execRxEnd_eq_next.mpr ⟨hst, .inr ⟨h.1, h.2, q, hq, rfl⟩⟩⟩
  · exact ⟨_, execRxEnd_eq_next.mpr ⟨hst, .inl ⟨h, rfl⟩⟩⟩

/-- Under the invariant RX takes every raw byte in every state (42_frame_receiver R65 and R77). -/
theorem rxStep_completes {s : State} (b : Byte) (hi : s.Inv) : ∃ t, rxStep b s = .next t := by
  unfold rxStep
  by_cases hsof : b = sof
  · exact ⟨_, hsof ▸ rxStep_sof s⟩
  cases hst : s.rxState with
  | idle => exact ⟨s, decodeRx_idle hsof ▸ whenSelected_eq_next.mpr ⟨by simp [hst], rfl⟩⟩
  | receiving =>
    by_cases heof : b = eof
    · obtain ⟨p, hp, -⟩ := hi.crcOfBuffer
      rw [heof, decodeRx_eof]
      exact execRxEnd_completes hst hp
    by_cases hesc : b = escByte
    · rw [hesc, decodeRx_esc]
      exact ⟨_, whenSelected_eq_next.mpr ⟨by simp [hst], rfl⟩⟩
    have hlit : reserved b = false := by simp [reserved, hsof, heof, hesc]
    obtain ⟨t, ht⟩ := acceptByte_completes (literalOperand b) hi.lenFits
    exact ⟨t, decodeRx_literal hlit ▸ whenSelected_eq_next.mpr ⟨by simp [hst, hlit], ht⟩⟩
  | escaping =>
    obtain ⟨t, ht⟩ := acceptByte_completes (escapedOperand b) hi.lenFits
    exact ⟨t, decodeRx_escaping hsof ▸ whenSelected_eq_next.mpr ⟨by simp [hst, hsof], ht⟩⟩

theorem whenTx_completes_or_refused (st : TxState) (s t : State) :
    (∃ u, whenTx st s t = .next u) ∨ whenTx st s t = .refused .txOutOfSequence := by
  unfold whenTx
  split
  · exact .inl ⟨t, rfl⟩
  · exact .inr rfl

/-- An encoder command completes or is refused (41_frame_encoder R59, 60_exceptions R91). -/
theorem exec_tx_completes_or_refused {i : Instr} (s : State) (hu : unitOf i = .tx) :
    (∃ t, exec i s = .next t) ∨ exec i s = .refused .txOutOfSequence ∨ exec i s = .refused .txReservedCode := by
  cases i <;> simp only [unitOf, reduceCtorEq] at hu
  case txReserved => exact .inr (.inr rfl)
  case txOpen | txByte b | txClose => exact (whenTx_completes_or_refused _ s _).imp_right .inl

theorem exec_crc_completes {i : Instr} (s : State) (hu : unitOf i = .crc) : ∃ t, exec i s = .next t := by
  cases i <;> simp only [unitOf, reduceCtorEq] at hu
  case crcClear | crcUpdate b => exact ⟨_, rfl⟩

/-- Whether a command is refused TX alone decides. -/
theorem exec_tx_refused_of_txSame {i : Instr} {s u : State} (hu : unitOf i = .tx) (h : TxSame s u)
    (hs : ∀ t, exec i s ≠ .next t) : exec i u = .refused .txOutOfSequence ∨ exec i u = .refused .txReservedCode := by
  rcases exec_tx_completes_or_refused u hu with ⟨t, ht⟩ | hr
  · obtain ⟨t', -, ht', -⟩ := txSeesOnlyItsOwnState i u s t hu ⟨h.cfg.symm, h.txState.symm, h.txCrc.symm⟩ ht
    exact absurd ht' (hs t')
  · exact hr

/-! ### What an operation leaves of what is presented, and of the schedule -/

/-- The same is presented to the units, and the schedule is the same. -/
structure SamePresented (s t : State) : Prop where
  rxIn : t.rxIn = s.rxIn
  txCmd : t.txCmd = s.txCmd
  crcOp : t.crcOp = s.crcOp
  resetIn : t.resetIn = s.resetIn
  turns : t.turns = s.turns

theorem exec_samePresented {i : Instr} {s t : State} (h : exec i s = .next t) : SamePresented s t := by
  cases hu : unitOf i with
  | rx => rw [exec_rx_writes hu h]; exact ⟨rfl, rfl, rfl, rfl, rfl⟩
  | tx => rw [exec_tx_writes hu h]; exact ⟨rfl, rfl, rfl, rfl, rfl⟩
  | crc => rw [exec_crc_writes hu h]; exact ⟨rfl, rfl, rfl, rfl, rfl⟩
  | block =>
    obtain rfl := unitOf_eq_block hu
    obtain rfl := Host.Outcome.next.inj h
    exact ⟨rfl, rfl, rfl, rfl, rfl⟩

theorem State.withUnit_turns {n : UnitName} (hn : n ≠ .block) (s t : State) (ts : List Turn) :
    State.withUnit n { s with turns := ts } t = { State.withUnit n s t with turns := ts } := by
  cases n with
  | rx | tx | crc => rfl
  | block => exact absurd rfl hn

/-- What an operation does is the same whatever turns follow. -/
theorem exec_withTurns {i : Instr} {s t : State} (ts : List Turn) (h : exec i s = .next t) :
    exec i { s with turns := ts } = .next { t with turns := ts } := by
  by_cases hu : unitOf i = .block
  · obtain rfl := unitOf_eq_block hu
    obtain rfl := Host.Outcome.next.inj h
    rfl
  · have hs : State.withUnit (unitOf i) { s with turns := ts } s = { s with turns := ts } := by
      rw [State.withUnit_turns hu, State.withUnit_self]
    have ht : State.withUnit (unitOf i) { s with turns := ts } t = { t with turns := ts } := by
      rw [State.withUnit_turns hu, exec_writes_own_unit h]
    rw [← hs, ← ht]
    exact exec_withUnit _ h

/-! ### Every run gets over -/

/-- Some schedule brings a run from `s` to its end. -/
def GetsOver (s : State) : Prop := ∃ ts t, run { s with turns := ts } t ∧ runOver t

/-- The turn `τ` moves `s` to `s'`, whatever turns follow it. -/
def TurnMoves (τ : Turn) (s s' : State) : Prop :=
  ∀ ts, runMove { s with turns := τ :: ts } { s' with turns := ts }

theorem GetsOver.of_turn {τ : Turn} {s s' : State} (h : TurnMoves τ s s') (hs' : GetsOver s') : GetsOver s := by
  obtain ⟨ts, t, hrun, hover⟩ := hs'
  exact ⟨τ :: ts, t, Relation.ReflTransGen.head (h ts) hrun, hover⟩

/-- A bound on the useful turns to the end of a run: a raw byte may leave a packet pending, and a command emits at most
three bytes (41_frame_encoder R56 to R58). -/
def workLeft (s : State) : Nat :=
  2 * s.rxIn.length + s.pktPending.toNat + 4 * s.txCmd.length + s.txUntaken + s.crcOp.length

/-- Some turn takes work off what is left, and asserts no reset. -/
def Advances (s : State) : Prop :=
  ∃ τ s', TurnMoves τ s s' ∧ workLeft s' < workLeft s ∧ s'.resetIn = false

theorem advances_of_pending {s : State} (hr : s.resetIn = false) (hp : s.pktPending = true) : Advances s :=
  ⟨.consumer, { s with pktPending := false },
    fun _ => .inl (step_of_wait (by simp [fetch, hr, takeTurn])), by simp [workLeft, hp], hr⟩

theorem advances_of_untaken {s : State} (hr : s.resetIn = false) (hu : s.txUntaken ≠ 0) : Advances s :=
  ⟨.sink, { s with txUntaken := s.txUntaken - 1 },
    fun _ => .inl (step_of_wait (by simp [fetch, hr, takeTurn])), by simp only [workLeft]; omega, hr⟩

theorem advances_of_rxIn {s : State} {b : Byte} {rest : List Byte} (hi : s.Inv) (hr : s.resetIn = false)
    (hp : s.pktPending = false) (hin : s.rxIn = b :: rest) : Advances s := by
  have hx : State.Inv { s with rxIn := rest } := inv_of_sameFrames { SameFrames.refl s with } hi
  obtain ⟨t, ht⟩ := rxStep_completes b hx
  have hu := unitOf_decodeRx s.rxState b
  have hpres := exec_samePresented ht
  have hunt : t.txUntaken = s.txUntaken := by rw [exec_rx_writes hu ht]
  have hpend := Bool.toNat_le t.pktPending
  refine ⟨.rx, t, fun ts => .inl ?_, ?_, hpres.resetIn.trans hr⟩
  · exact (step_at_rx_turn (s := { s with turns := .rx :: ts }) hr rfl hin hp).trans (exec_withTurns ts ht)
  · simp only [workLeft, hpres.rxIn, hpres.txCmd, hpres.crcOp, hunt, hin, List.length_cons]
    omega

theorem esc_length_le (b : Byte) : (esc b).length ≤ 2 := by
  unfold esc
  split <;> simp

/-- A command emits at most three bytes. -/
theorem exec_tx_emits_le {i : Instr} {s t : State} (hu : unitOf i = .tx) (h : exec i s = .next t) :
    t.txUntaken ≤ s.txUntaken + 3 := by
  rcases exec_tx_cases hu h with ⟨-, -, rfl⟩ | ⟨b, -, -, rfl⟩ | ⟨-, -, rfl⟩
  · exact Nat.add_le_add_left (show [sof].length ≤ 3 by decide) s.txUntaken
  · exact Nat.add_le_add_left ((esc_length_le b).trans (by decide)) s.txUntaken
  · have hlen : (esc s.txCrc ++ [eof]).length ≤ 3 := by
      rw [List.length_append]
      exact Nat.add_le_add_right (esc_length_le s.txCrc) 1
    exact Nat.add_le_add_left hlen s.txUntaken

/-- A command is performed, or refused and withdrawn. -/
theorem advances_of_txCmd {s : State} {w : TxWord} {rest : List TxWord} (hr : s.resetIn = false)
    (hunt : s.txUntaken = 0) (hcmd : s.txCmd = w :: rest) : Advances s := by
  have hu := unitOf_decodeTx w
  have hstep (ts : List Turn) := step_at_tx_turn (s := { s with turns := .tx :: ts }) hr rfl hcmd hunt
  by_cases hnext : ∃ t, exec (decodeTx w) { s with txCmd := rest } = .next t
  · obtain ⟨t, ht⟩ := hnext
    have hpres := exec_samePresented ht
    have hpend : t.pktPending = s.pktPending := by rw [exec_tx_writes hu ht]
    have hemit : t.txUntaken ≤ 3 := by simpa [hunt] using exec_tx_emits_le hu ht
    refine ⟨.tx, t, fun ts => .inl ((hstep ts).trans (exec_withTurns ts ht)), ?_, hpres.resetIn.trans hr⟩
    simp only [workLeft, hpres.rxIn, hpres.txCmd, hpres.crcOp, hpend, hcmd, List.length_cons]
    omega
  · refine ⟨.tx, { s with txCmd := rest }, fun ts => .inr ⟨?_, .inr ?_⟩, ?_, hr⟩
    · unfold commandRefused
      rw [hstep ts]
      exact exec_tx_refused_of_txSame (s := { s with txCmd := rest }) hu ⟨rfl, rfl, rfl⟩ (not_exists.mp hnext)
    · simp [withdrawRefused, hcmd]
    · simp [workLeft, hcmd]

theorem advances_of_crcOp {s : State} {w : CrcWord} {rest : List CrcWord} (hr : s.resetIn = false)
    (hop : s.crcOp = w :: rest) : Advances s := by
  have hu := unitOf_decodeCrc w
  obtain ⟨t, ht⟩ := exec_crc_completes { s with crcOp := rest } hu
  have hpres := exec_samePresented ht
  have hpend : t.pktPending = s.pktPending := by rw [exec_crc_writes hu ht]
  have hunt : t.txUntaken = s.txUntaken := by rw [exec_crc_writes hu ht]
  refine ⟨.crc, t, fun ts => .inl ?_, ?_, hpres.resetIn.trans hr⟩
  · exact (step_at_crc_turn (s := { s with turns := .crc :: ts }) hr rfl hop).trans (exec_withTurns ts ht)
  · simp [workLeft, hpres.rxIn, hpres.txCmd, hpres.crcOp, hpend, hunt, hop]

/-- The consumer and the sink come first, then whichever unit has an input left. -/
theorem runOver_or_advances {s : State} (hi : s.Inv) (hr : s.resetIn = false) : runOver s ∨ Advances s := by
  cases hp : s.pktPending with
  | true => exact .inr (advances_of_pending hr hp)
  | false =>
    by_cases hunt : s.txUntaken = 0
    · cases hin : s.rxIn with
      | cons b rest => exact .inr (advances_of_rxIn hi hr hp hin)
      | nil =>
        cases hcmd : s.txCmd with
        | cons w rest => exact .inr (advances_of_txCmd hr hunt hcmd)
        | nil =>
          cases hop : s.crcOp with
          | cons w rest => exact .inr (advances_of_crcOp hr hop)
          | nil => exact .inl ⟨⟨hin, hcmd, hop, hr⟩, hp, hunt⟩
    · exact .inr (advances_of_untaken hr hunt)

theorem runMove_keeps_inv {s t : State} (hi : s.Inv) (h : runMove s t) : t.Inv := by
  rcases h with h | ⟨-, rfl | rfl⟩
  · exact stepKeepsInvariant s t hi h
  · exact inv_of_sameFrames { SameFrames.refl s with } hi
  · exact inv_of_sameFrames { SameFrames.refl s with } hi

/-- The invariant says nothing of the schedule. -/
theorem inv_withTurns_iff {s : State} {ts : List Turn} : State.Inv { s with turns := ts } ↔ s.Inv :=
  ⟨inv_of_sameFrames (s := { s with turns := ts }) { SameFrames.refl s with },
    inv_of_sameFrames { SameFrames.refl s with }⟩

theorem TurnMoves.keeps_inv {τ : Turn} {s s' : State} (h : TurnMoves τ s s') (hi : s.Inv) : s'.Inv :=
  inv_withTurns_iff.mp (runMove_keeps_inv (inv_withTurns_iff.mpr hi) (h []))

/-- By induction on the work left. -/
theorem getsOver_of_no_reset {s : State} (hi : s.Inv) (hr : s.resetIn = false) : GetsOver s := by
  rcases runOver_or_advances hi hr with hover | ⟨τ, s', hmove, hless, hr'⟩
  · exact ⟨s.turns, s, run_refl s, hover⟩
  · exact .of_turn hmove (getsOver_of_no_reset (hmove.keeps_inv hi) hr')
termination_by workLeft s

theorem step_of_resetIn {s : State} (hr : s.resetIn = true) : step s = exec .reset { s with resetIn := false } :=
  step_of_run (if_pos hr)

/-- An outstanding reset is performed first, whatever the schedule (70_reset_and_hazards R95). -/
theorem getsOver {s : State} (hi : s.Inv) : GetsOver s := by
  cases hr : s.resetIn with
  | false => exact getsOver_of_no_reset hi hr
  | true =>
    have hlow : State.Inv { s with resetIn := false } := inv_of_sameFrames { SameFrames.refl s with } hi
    obtain ⟨t, ht⟩ : ∃ t, exec .reset { s with resetIn := false } = .next t := ⟨_, rfl⟩
    obtain ⟨ts, u, hrun, hover⟩ := getsOver_of_no_reset (exec_reset_keeps_inv hlow ht) (exec_samePresented ht).resetIn
    have hstep := step_of_resetIn (s := { s with turns := ts }) hr
    exact ⟨ts, u, run_of_step (hstep.trans (exec_withTurns ts ht)) hrun, hover⟩

end Sys2Proof.Machine
end

section
/-! PROOF. Without a reset the schedule does not show (O60, third part). What RX comes to after the raw bytes still
presented, and TX after the commands still presented, stays the same along a run; at the run's end nothing is
presented, and what they come to is what is observed. -/

namespace Sys2Proof.Machine

/-! ### States that differ in nothing observed of a unit -/

/-- RX cannot tell the states apart, and the same packets have been delivered. -/
structure RxAlike (s u : State) : Prop extends RxSame s u where
  packets : s.rxPkt = u.rxPkt

/-- TX cannot tell the states apart, and the same bytes have been emitted. -/
structure TxAlike (s u : State) : Prop extends TxSame s u where
  emitted : s.txOut = u.txOut

theorem RxAlike.refl (s : State) : RxAlike s s := ⟨⟨rfl, rfl, rfl, rfl, fun _ => rfl⟩, rfl⟩

theorem RxAlike.symm {s u : State} (h : RxAlike s u) : RxAlike u s :=
  ⟨⟨h.cfg.symm, h.rxState.symm, h.rxLen.symm, h.rxCrc.symm, fun i => (h.bytes i).symm⟩, h.packets.symm⟩

theorem RxAlike.trans {s t u : State} (h : RxAlike s t) (h' : RxAlike t u) : RxAlike s u :=
  ⟨⟨h.cfg.trans h'.cfg, h.rxState.trans h'.rxState, h.rxLen.trans h'.rxLen, h.rxCrc.trans h'.rxCrc,
    fun i => (h.bytes i).trans (h'.bytes i)⟩, h.packets.trans h'.packets⟩

theorem RxAlike.of_sameFrames {s t : State} (h : SameFrames s t) : RxAlike s t :=
  ⟨⟨h.cfg.symm, h.rxState.symm, h.rxLen.symm, h.rxCrc.symm, fun i => by simp only [memRead, h.rxBuf, h.rxLen]⟩,
    h.rxPkt.symm⟩

theorem TxAlike.refl (s : State) : TxAlike s s := ⟨⟨rfl, rfl, rfl⟩, rfl⟩

theorem TxAlike.symm {s u : State} (h : TxAlike s u) : TxAlike u s :=
  ⟨⟨h.cfg.symm, h.txState.symm, h.txCrc.symm⟩, h.emitted.symm⟩

theorem TxAlike.trans {s t u : State} (h : TxAlike s t) (h' : TxAlike t u) : TxAlike s u :=
  ⟨⟨h.cfg.trans h'.cfg, h.txState.trans h'.txState, h.txCrc.trans h'.txCrc⟩, h.emitted.trans h'.emitted⟩

theorem TxAlike.of_sameFrames {s t : State} (h : SameFrames s t) : TxAlike s t :=
  ⟨⟨h.cfg.symm, h.txState.symm, h.txCrc.symm⟩, h.txOut.symm⟩

theorem observe_eq_of_alike {s u : State} (hrx : RxAlike s u) (htx : TxAlike s u) : observe s = observe u := by
  simp only [observe, hrx.packets, htx.emitted, hrx.rxState, hrx.rxLen, hrx.bufBytes_eq, hrx.rxCrc, htx.txState,
    htx.txCrc]

/-! ### An operation performed where it can be -/

/-- The state after an operation; the same state where the operation has no step. -/
def perform (i : Instr) (s : State) : State :=
  match exec i s with
  | .next t => t
  | .fault _ => s
  | .refused _ => s

theorem perform_of_next {i : Instr} {s t : State} (h : exec i s = .next t) : perform i s = t := by
  simp [perform, h]

theorem perform_of_no_next {i : Instr} {s : State} (h : ∀ t, exec i s ≠ .next t) : perform i s = s := by
  unfold perform
  split
  · next t ht => exact absurd ht (h t)
  · rfl
  · rfl

theorem perform_of_refused {i : Instr} {s : State} {r : Refusal} (h : exec i s = .refused r) : perform i s = s :=
  perform_of_no_next fun t ht => by simp [h] at ht

/-- An operation that preserves what `R` relates where it completes does so where it has no step, as `R` is symmetric:
it then completes on neither side. -/
theorem perform_rel {R : State → State → Prop} {i : Instr} (hsymm : ∀ s u, R s u → R u s)
    (hnext : ∀ s u t, R s u → exec i s = .next t → ∃ t', exec i u = .next t' ∧ R t t') {s u : State} (h : R s u) :
    R (perform i s) (perform i u) := by
  by_cases hs : ∃ t, exec i s = .next t
  · obtain ⟨t, ht⟩ := hs
    obtain ⟨t', ht', hR⟩ := hnext s u t h ht
    rwa [perform_of_next ht, perform_of_next ht']
  · have hu (t : State) : exec i u ≠ .next t := fun ht =>
      let ⟨t', ht', _⟩ := hnext u s t (hsymm s u h) ht
      hs ⟨t', ht'⟩
    rwa [perform_of_no_next (not_exists.mp hs), perform_of_no_next hu]

theorem perform_rxAlike {i : Instr} {s u : State} (hu : unitOf i = .rx) (h : RxAlike s u) :
    RxAlike (perform i s) (perform i u) := by
  refine perform_rel (R := RxAlike) (fun _ _ => RxAlike.symm) (fun s u t h ht => ?_) h
  obtain ⟨t', new, ht', hsame, hs, hu'⟩ := exec_rx_follows hu h.toRxSame ht
  exact ⟨t', ht', hsame, by rw [hs, hu', h.packets]⟩

theorem perform_txAlike {i : Instr} {s u : State} (hu : unitOf i = .tx) (h : TxAlike s u) :
    TxAlike (perform i s) (perform i u) := by
  refine perform_rel (R := TxAlike) (fun _ _ => TxAlike.symm) (fun s u t h ht => ?_) h
  obtain ⟨t', out, ht', hsame, hs, hu'⟩ := txSeesOnlyItsOwnState i s u t hu h.toTxSame ht
  exact ⟨t', ht', hsame, by rw [hs, hu', h.emitted]⟩

/-- What holds of a state and of what an operation makes of it holds after the operation, performed or not. -/
theorem perform_cases {P : State → Prop} {i : Instr} {s : State} (hs : P s) (hnext : ∀ t, exec i s = .next t → P t) :
    P (perform i s) := by
  by_cases h : ∃ t, exec i s = .next t
  · obtain ⟨t, ht⟩ := h
    exact perform_of_next ht ▸ hnext t ht
  · rwa [perform_of_no_next (not_exists.mp h)]

theorem perform_samePresented (i : Instr) (s : State) : SamePresented s (perform i s) :=
  perform_cases ⟨rfl, rfl, rfl, rfl, rfl⟩ fun _ => exec_samePresented

theorem rxAlike_perform_tx {i : Instr} (s : State) (hu : unitOf i = .tx) : RxAlike s (perform i s) :=
  perform_cases (RxAlike.refl s) fun t ht => by
    rw [exec_tx_writes hu ht]
    exact ⟨⟨rfl, rfl, rfl, rfl, fun _ => rfl⟩, rfl⟩

theorem txAlike_perform_rx {i : Instr} (s : State) (hu : unitOf i = .rx) : TxAlike s (perform i s) :=
  perform_cases (TxAlike.refl s) fun t ht => by
    rw [exec_rx_writes hu ht]
    exact ⟨⟨rfl, rfl, rfl⟩, rfl⟩

/-! ### What a unit comes to -/

/-- `s` after RX has taken the raw bytes `bs`. -/
def rxAfter (bs : List Byte) (s : State) : State := bs.foldl (fun t b => perform (decodeRx t.rxState b) t) s

/-- `s` after TX has performed the commands `ws`, those it refuses left out. -/
def txAfter (ws : List TxWord) (s : State) : State := ws.foldl (fun t w => perform (decodeTx w) t) s

theorem rxAfter_alike {s u : State} (bs : List Byte) (h : RxAlike s u) : RxAlike (rxAfter bs s) (rxAfter bs u) :=
  List.foldl_rel h fun b _ t t' h => by
    rw [h.rxState]
    exact perform_rxAlike (unitOf_decodeRx _ b) h

theorem txAfter_alike {s u : State} (ws : List TxWord) (h : TxAlike s u) : TxAlike (txAfter ws s) (txAfter ws u) :=
  List.foldl_rel h fun w _ _ _ h => perform_txAlike (unitOf_decodeTx w) h

/-! ### A move without a reset -/

/-- No reset is outstanding, and the schedule asserts none. -/
structure NoReset (s : State) : Prop where
  resetIn : s.resetIn = false
  turns : .resetDriver ∉ s.turns

theorem NoReset.of_samePresented {s t : State} (h : SamePresented s t) (hs : NoReset s) : NoReset t :=
  ⟨h.resetIn ▸ hs.resetIn, h.turns ▸ hs.turns⟩

/-- A turn that is not the reset driver's has been taken, and no operation performed yet. -/
structure TurnTaken (s x : State) : Prop extends SameFrames s x where
  turns : x.turns = s.turns.tail
  resetIn : x.resetIn = s.resetIn

theorem NoReset.of_turnTaken {s x : State} (h : TurnTaken s x) (hs : NoReset s) : NoReset x :=
  ⟨h.resetIn.trans hs.resetIn, fun hm => hs.turns (List.mem_of_mem_tail (h.turns ▸ hm))⟩

/-- All that a move from `s` to `t` can be where no reset is asserted: RX takes a raw byte, TX takes a command, which it
performs or refuses, or neither of them moves. `x` is the state in which the operation is performed. -/
inductive QuietMove (s t : State) : Prop where
  | other (taken : TurnTaken s t) (hrx : t.rxIn = s.rxIn) (htx : t.txCmd = s.txCmd)
  | rx (b : Byte) (x : State) (taken : TurnTaken s x) (hrx : s.rxIn = b :: x.rxIn) (htx : x.txCmd = s.txCmd)
    (ht : t = perform (decodeRx s.rxState b) x)
  | tx (w : TxWord) (x : State) (taken : TurnTaken s x) (hrx : x.rxIn = s.rxIn) (htx : s.txCmd = w :: x.txCmd)
    (ht : t = perform (decodeTx w) x)

theorem acceptByte_ne_refused {v : Byte} {s : State} {r : Refusal} : acceptByte v s ≠ .refused r := by
  unfold acceptByte
  split
  · simp
  · split <;> simp

theorem whenSelected_eq_refused {c : Bool} {k : Host.Outcome State Fault Refusal} {r : Refusal}
    (h : whenSelected c k = .refused r) (hk : k ≠ .refused r) : r = .rxNotSelected := by
  cases c with
  | true => exact absurd h hk
  | false => exact (Host.Outcome.refused.inj h).symm

/-- RX refuses nothing but what is not selected, so a refusal of a command is never RX's. -/
theorem exec_rx_eq_refused {i : Instr} {s : State} {r : Refusal} (hu : unitOf i = .rx)
    (h : exec i s = .refused r) : r = .rxNotSelected := by
  cases i <;> simp only [unitOf, reduceCtorEq] at hu
  case rxStart => exact nomatch (execRxStart_eq s).symm.trans h
  case rxIgnore | rxEsc => exact whenSelected_eq_refused h nofun
  case rxXdata b | rxData b => exact whenSelected_eq_refused h acceptByte_ne_refused
  case rxEnd =>
    refine whenSelected_eq_refused h ?_
    split
    · simp
    · split <;> simp

/-- Where RX has an operation to perform a move performs it. -/
theorem quietMove_of_rx {s t x : State} {b : Byte} (hstep : step s = exec (decodeRx s.rxState b) x)
    (taken : TurnTaken s x) (hrx : s.rxIn = b :: x.rxIn) (htx : x.txCmd = s.txCmd) (h : runMove s t) :
    QuietMove s t := by
  have hu := unitOf_decodeRx s.rxState b
  rcases h with h | ⟨h | h, -⟩
  · exact .rx b x taken hrx htx (perform_of_next (hstep.symm.trans h)).symm
  · exact nomatch exec_rx_eq_refused hu (hstep.symm.trans h)
  · exact nomatch exec_rx_eq_refused hu (hstep.symm.trans h)

/-- Where TX has a command to perform a move performs it, or leaves it presented, or withdraws it because it is
refused. -/
theorem quietMove_of_tx {s t : State} {w : TxWord} (hstep : step s = exec (decodeTx w) (withdrawRefused s))
    (htx : s.txCmd = w :: s.txCmd.tail) (h : runMove s t) : QuietMove s t := by
  have taken : TurnTaken s (withdrawRefused s) := ⟨{ SameFrames.refl s with }, rfl, rfl⟩
  rcases h with h | ⟨h, rfl | rfl⟩
  · exact .tx w _ taken rfl htx (perform_of_next (hstep.symm.trans h)).symm
  · exact .other ⟨{ SameFrames.refl s with }, rfl, rfl⟩ rfl rfl
  · rcases h with h | h <;> exact .tx w _ taken rfl htx (perform_of_refused (hstep.symm.trans h)).symm

/-- The CRC8 unit's operations always complete, and neither RX nor TX sees them. -/
theorem quietMove_of_crc {s t x : State} {w : CrcWord} (hstep : step s = exec (decodeCrc w) x)
    (taken : TurnTaken s x) (hrx : x.rxIn = s.rxIn) (htx : x.txCmd = s.txCmd) (h : runMove s t) :
    QuietMove s t := by
  have hu := unitOf_decodeCrc w
  obtain ⟨u, hexec⟩ := exec_crc_completes x hu
  obtain rfl := runMove_eq_of_step (hstep.trans hexec) h
  have hpres := exec_samePresented hexec
  exact .other ⟨taken.toSameFrames.trans (exec_crc_sameFrames hu hexec), hpres.turns.trans taken.turns,
    hpres.resetIn.trans taken.resetIn⟩ (hpres.rxIn.trans hrx) (hpres.txCmd.trans htx)

theorem quietMove_of_turn {s t : State} {τ : Turn} (hτ : τ ≠ .resetDriver)
    (hfetch : fetch s = takeTurn τ { s with turns := s.turns.tail }) (h : runMove s t) : QuietMove s t := by
  have hwait {u : State} (hf : takeTurn τ { s with turns := s.turns.tail } = .wait u) : t = u :=
    runMove_eq_of_step (step_of_wait (hfetch.trans hf)) h
  have hpass : TurnTaken s { s with turns := s.turns.tail } := ⟨{ SameFrames.refl s with }, rfl, rfl⟩
  cases τ with
  | rx =>
    rcases fetchRx_cases { s with turns := s.turns.tail } with hf | ⟨b, bs, hin, -, hf⟩
    · exact hwait hf ▸ .other hpass rfl rfl
    · exact quietMove_of_rx (step_of_run (hfetch.trans hf)) ⟨{ SameFrames.refl s with }, rfl, rfl⟩ hin rfl h
  | tx =>
    rcases fetchTx_cases { s with turns := s.turns.tail } with hf | ⟨w, ws, hcmd, -, hf⟩
    · exact hwait hf ▸ .other hpass rfl rfl
    · obtain rfl : s.txCmd.tail = ws := congrArg List.tail hcmd
      exact quietMove_of_tx (step_of_run (hfetch.trans hf)) hcmd h
  | crc =>
    rcases fetchCrc_cases { s with turns := s.turns.tail } with hf | ⟨w, ws, -, hf⟩
    · exact hwait hf ▸ .other hpass rfl rfl
    · exact quietMove_of_crc (step_of_run (hfetch.trans hf)) ⟨{ SameFrames.refl s with }, rfl, rfl⟩ rfl rfl h
  | consumer => exact hwait rfl ▸ .other ⟨{ SameFrames.refl s with pktPending := nofun }, rfl, rfl⟩ rfl rfl
  | sink => exact hwait rfl ▸ .other ⟨{ SameFrames.refl s with txUntaken := Nat.sub_le _ _ }, rfl, rfl⟩ rfl rfl
  | resetDriver => exact absurd rfl hτ

theorem quietMove_of_noReset {s t : State} (hs : NoReset s) (h : runMove s t) : QuietMove s t := by
  rcases fetch_cases s with ⟨hr, -⟩ | ⟨-, ⟨hnil, hf⟩ | ⟨τ, rest, hcons, hf⟩⟩
  · simp [hs.resetIn] at hr
  · obtain rfl := runMove_eq_of_step (step_of_wait hf) h
    exact .other ⟨SameFrames.refl t, by simp [hnil], rfl⟩ rfl rfl
  · have hτ : τ ≠ .resetDriver := fun he => hs.turns (by simp [hcons, he])
    obtain rfl : s.turns.tail = rest := congrArg List.tail hcons
    exact quietMove_of_turn hτ hf h

/-! ### What does not change along a run -/

theorem QuietMove.keeps_noReset {s t : State} (h : QuietMove s t) (hs : NoReset s) : NoReset t := by
  cases h with
  | other taken => exact hs.of_turnTaken taken
  | rx b x taken hrx htx ht => exact ht ▸ (hs.of_turnTaken taken).of_samePresented (perform_samePresented _ x)
  | tx w x taken hrx htx ht => exact ht ▸ (hs.of_turnTaken taken).of_samePresented (perform_samePresented _ x)

theorem QuietMove.keeps_rxAfter {s t : State} (h : QuietMove s t) :
    RxAlike (rxAfter s.rxIn s) (rxAfter t.rxIn t) := by
  cases h with
  | other taken hrx _ => exact hrx ▸ rxAfter_alike _ (.of_sameFrames taken.toSameFrames)
  | rx b x taken hrx _ ht =>
    have hin : t.rxIn = x.rxIn := ht ▸ (perform_samePresented _ x).rxIn
    have hop : RxAlike (perform (decodeRx s.rxState b) s) t :=
      ht ▸ perform_rxAlike (unitOf_decodeRx _ b) (.of_sameFrames taken.toSameFrames)
    rw [hrx, hin]
    exact rxAfter_alike x.rxIn hop
  | tx w x taken hrx _ ht =>
    have hin : t.rxIn = s.rxIn := (ht ▸ (perform_samePresented _ x).rxIn : t.rxIn = x.rxIn).trans hrx
    have hop : RxAlike s t :=
      ht ▸ (RxAlike.of_sameFrames taken.toSameFrames).trans (rxAlike_perform_tx x (unitOf_decodeTx w))
    exact hin ▸ rxAfter_alike _ hop

theorem QuietMove.keeps_txAfter {s t : State} (h : QuietMove s t) :
    TxAlike (txAfter s.txCmd s) (txAfter t.txCmd t) := by
  cases h with
  | other taken _ htx => exact htx ▸ txAfter_alike _ (.of_sameFrames taken.toSameFrames)
  | rx b x taken _ htx ht =>
    have hcmd : t.txCmd = s.txCmd := (ht ▸ (perform_samePresented _ x).txCmd : t.txCmd = x.txCmd).trans htx
    have hop : TxAlike s t :=
      ht ▸ (TxAlike.of_sameFrames taken.toSameFrames).trans (txAlike_perform_rx x (unitOf_decodeRx _ b))
    exact hcmd ▸ txAfter_alike _ hop
  | tx w x taken _ htx ht =>
    have hcmd : t.txCmd = x.txCmd := ht ▸ (perform_samePresented _ x).txCmd
    have hop : TxAlike (perform (decodeTx w) s) t :=
      ht ▸ perform_txAlike (unitOf_decodeTx w) (.of_sameFrames taken.toSameFrames)
    rw [htx, hcmd]
    exact txAfter_alike x.txCmd hop

/-- Both units have come to the same in `t` as in `s`, and no reset is asserted. -/
structure ComesToTheSame (s t : State) : Prop extends NoReset t where
  rx : RxAlike (rxAfter s.rxIn s) (rxAfter t.rxIn t)
  tx : TxAlike (txAfter s.txCmd s) (txAfter t.txCmd t)

theorem run_comesToTheSame {s t : State} (hs : NoReset s) (h : run s t) : ComesToTheSame s t :=
  run_keeps (P := ComesToTheSame s)
    (fun _ _ hu hm =>
      have hq := quietMove_of_noReset hu.toNoReset hm
      ⟨hq.keeps_noReset hu.toNoReset, hu.rx.trans hq.keeps_rxAfter, hu.tx.trans hq.keeps_txAfter⟩)
    h ⟨hs, .refl _, .refl _⟩

/-- A run that gets over ends in what both units come to, which the schedule has no part in. -/
theorem run_ends_alike {s t : State} {ts : List Turn} (hr : s.resetIn = false) (hts : .resetDriver ∉ ts)
    (h : run { s with turns := ts } t) (hover : runOver t) :
    RxAlike (rxAfter s.rxIn s) t ∧ TxAlike (txAfter s.txCmd s) t := by
  obtain ⟨⟨hin, hcmd, -, -⟩, -, -⟩ := hover
  obtain ⟨-, hrx, htx⟩ := run_comesToTheSame (s := { s with turns := ts }) ⟨hr, hts⟩ h
  have hstart : SameFrames s { s with turns := ts } := { SameFrames.refl s with }
  rw [hin] at hrx
  rw [hcmd] at htx
  exact ⟨(rxAfter_alike s.rxIn (.of_sameFrames hstart)).trans hrx,
    (txAfter_alike s.txCmd (.of_sameFrames hstart)).trans htx⟩

theorem observe_eq_of_runs {s t u : State} {ts us : List Turn} (hr : s.resetIn = false) (hts : .resetDriver ∉ ts)
    (hus : .resetDriver ∉ us) (ht : run { s with turns := ts } t) (hu : run { s with turns := us } u)
    (hovert : runOver t) (hoveru : runOver u) : observe t = observe u := by
  obtain ⟨hrxt, htxt⟩ := run_ends_alike hr hts ht hovert
  obtain ⟨hrxu, htxu⟩ := run_ends_alike hr hus hu hoveru
  exact observe_eq_of_alike (hrxt.symm.trans hrxu) (htxt.symm.trans htxu)

/-! ### The three parts together -/

/-- Where the schedule is used up a duty that is kept is a duty done: the run stays where it is. -/
theorem runOver_of_duties {s t : State} (hcons : consumerKeepsDuty s) (hsink : sinkKeepsDuty s) (h : run s t)
    (hturns : t.turns = []) (hin : inputsConsumed t) : runOver t := by
  have ⟨_, _, _, hr⟩ := hin
  refine ⟨hin, ?_, ?_⟩
  · by_contra hp
    obtain ⟨u, hrun, hfin⟩ := hcons t h (by simpa [consumerFinished] using hp)
    exact hp (run_of_exhausted hturns hr hrun ▸ hfin)
  · by_contra hunt
    obtain ⟨u, hrun, htook⟩ := hsink t h hunt
    exact hunt (run_of_exhausted hturns hr hrun ▸ htook)

/-- Settles O60: a useful turn takes work off the run; a duty kept on a used-up schedule is done; and what the units
come to is the same along every run. -/
theorem runsGetOverAndAreObservedTheSame : Obligations.RunsGetOverAndAreObservedTheSame :=
  ⟨fun _ hi => getsOver hi, fun _ _ => runOver_of_duties, fun _ _ _ _ _ => observe_eq_of_runs⟩

end Sys2Proof.Machine
end

section
/-! PROOF. The escape function and its pairs (O6, O7), and the length of a frame (O10). -/

namespace Sys2Proof.Machine

/-! ### The escape code -/

theorem reserved_eq_false_iff {b : Byte} : reserved b = false ↔ ¬ (b = sof ∨ b = eof ∨ b = escByte) := by
  rw [← reserved_iff, Bool.not_eq_true]

/-- Settles O6, by the two cases of the escape function. -/
theorem escapeFunction : Obligations.EscapeFunction := fun b =>
  ⟨reserved_iff b, fun h => esc_of_reserved ((reserved_iff b).mpr h),
    fun h => esc_of_not_reserved (reserved_eq_false_iff.mpr h)⟩

theorem esc_eq_pair_iff {b x y : Byte} :
    esc b = [x, y] ↔ reserved b = true ∧ x = escByte ∧ y = complement b := by
  cases hb : reserved b with
  | false => simp [esc_of_not_reserved hb]
  | true => simp [esc_of_reserved hb, eq_comm]

theorem esc_eq_pair_cases {b x y : Byte} : esc b = [x, y] ↔
    x = 0x50 ∧ ((b = 0x55 ∧ y = 0xAA) ∨ (b = 0x5A ∧ y = 0xA5) ∨ (b = 0x50 ∧ y = 0xAF)) := by
  rw [esc_eq_pair_iff, reserved_iff]
  constructor
  · rintro ⟨rfl | rfl | rfl, rfl, rfl⟩ <;> decide
  · rintro ⟨rfl, ⟨rfl, rfl⟩ | ⟨rfl, rfl⟩ | ⟨rfl, rfl⟩⟩ <;> decide

/-- Settles O7: the pairs are read off the three reserved bytes. -/
theorem escapePairs : Obligations.EscapePairs := by
  refine ⟨fun _ _ _ => esc_eq_pair_cases, fun b x y h => ?_⟩
  obtain ⟨-, ⟨rfl, rfl⟩ | ⟨rfl, rfl⟩ | ⟨rfl, rfl⟩⟩ := esc_eq_pair_cases.mp h <;> decide

/-! ### The length of a frame -/

theorem esc_length (b : Byte) : (esc b).length = 1 + if reserved b then 1 else 0 := by
  unfold esc
  split <;> rfl

theorem encodeBody_length (c : Byte) (x : List Byte) :
    (encodeBody c x).length = x.length + x.countP reserved + (esc (crc8From c x)).length := by
  induction x generalizing c with
  | nil => simp [encodeBody_nil]
  | cons b x ih =>
    rw [encodeBody_cons, List.length_append, ih, esc_length b, List.length_cons, List.countP_cons, crc8From_cons]
    omega

/-- Settles O10: the exact length, then at most one byte more for each byte and for the checksum. -/
theorem encodeSize : Obligations.EncodeSize := by
  intro c x
  have hlen : (encodeFrame c x).length =
      x.length + x.countP reserved + (if reserved (crc8From c x) then 1 else 0) + 3 := by
    simp only [encodeFrame, List.length_append, List.length_singleton, encodeBody_length, esc_length]
    omega
  have hcount : x.countP reserved ≤ x.length := List.countP_le_length
  refine ⟨hlen, ?_, ?_⟩ <;> rw [hlen]
  · omega
  · split <;> omega

end Sys2Proof.Machine
end

section
/-! PROOF. The decoder and the encoder of the operations (O1, O2, O3, O4). RX's decoding is one case per row of
30_encoding R38 (`decodeRx_cases`); a command word's is one lemma per code, given of the code bits alone, so that it
serves words written as code and byte and words tested by a mask. -/

namespace Sys2Proof

open Machine

/-! ### RX: the rows of the classification table -/

/-- RX's decoding row by row, each row with the raw bytes that no earlier row takes (30_encoding R38). -/
theorem decodeRx_cases (st : RxState) (b : Byte) :
    (b = sof ∧ decodeRx st b = .rxStart) ∨
    (st = .idle ∧ b ≠ sof ∧ decodeRx st b = .rxIgnore) ∨
    (st = .receiving ∧ b = eof ∧ decodeRx st b = .rxEnd) ∨
    (st = .receiving ∧ b = escByte ∧ decodeRx st b = .rxEsc) ∨
    (st = .escaping ∧ b ≠ sof ∧ decodeRx st b = .rxXdata b) ∨
    (st = .receiving ∧ reserved b = false ∧ decodeRx st b = .rxData b) := by
  by_cases hsof : b = sof
  · exact .inl ⟨hsof, hsof ▸ decodeRx_sof st⟩
  refine .inr ?_
  cases st with
  | idle => exact .inl ⟨rfl, hsof, decodeRx_idle hsof⟩
  | escaping => exact .inr (.inr (.inr (.inl ⟨rfl, hsof, decodeRx_escaping hsof⟩)))
  | receiving =>
    refine .inr ?_
    by_cases heof : b = eof
    · exact .inl ⟨rfl, heof, heof ▸ decodeRx_eof⟩
    by_cases hesc : b = escByte
    · exact .inr (.inl ⟨rfl, hesc, hesc ▸ decodeRx_esc⟩)
    have hlit : reserved b = false := reserved_eq_false_iff.mpr (by simp [hsof, heof, hesc])
    exact .inr (.inr (.inr ⟨rfl, hlit, decodeRx_literal hlit⟩))

/-! ### TX and the CRC8 unit: the code bits of a command word -/

theorem decodeTx_reserved {w : TxWord} (h : w.extractLsb' 8 2 = 0b00#2) : decodeTx w = .txReserved := by
  simp [decodeTx, h]

theorem decodeTx_open {w : TxWord} (h : w.extractLsb' 8 2 = 0b01#2) : decodeTx w = .txOpen := by
  simp [decodeTx, h]

theorem decodeTx_byte {w : TxWord} (h : w.extractLsb' 8 2 = 0b10#2) :
    decodeTx w = .txByte (w.extractLsb' 0 8) := by
  simp [decodeTx, h]

theorem decodeTx_close {w : TxWord} (h : w.extractLsb' 8 2 = 0b11#2) : decodeTx w = .txClose := by
  simp [decodeTx, h]

theorem decodeCrc_clear {w : CrcWord} (h : w.extractLsb' 8 1 = 0#1) : decodeCrc w = .crcClear := by
  simp [decodeCrc, h]

theorem decodeCrc_update {w : CrcWord} (h : w.extractLsb' 8 1 = 1#1) :
    decodeCrc w = .crcUpdate (w.extractLsb' 0 8) := by
  simp [decodeCrc, h]

theorem decodeTx_byteWord (b : Byte) : decodeTx (0b10#2 ++ b) = .txByte b := by
  rw [decodeTx_byte BitVec.extractLsb'_append_eq_left, BitVec.extractLsb'_append_eq_right]

theorem decodeCrc_updateWord (b : Byte) : decodeCrc (1#1 ++ b) = .crcUpdate b := by
  rw [decodeCrc_update BitVec.extractLsb'_append_eq_left, BitVec.extractLsb'_append_eq_right]

/-! ### Decoding what was encoded -/

/-- Settles O1: an RX operation by its row of R38, a command by the code its word is written with. -/
theorem decodeEncodeAgree : Obligations.DecodeEncodeAgree := by
  intro i st hwf hsel
  cases i with
  | rxStart => exact decodeRx_sof st
  | rxIgnore =>
    obtain rfl : st = .idle := beq_iff_eq.mp hsel
    exact decodeRx_idle (by decide)
  | rxEnd =>
    obtain rfl : st = .receiving := beq_iff_eq.mp hsel
    exact decodeRx_eof
  | rxEsc =>
    obtain rfl : st = .receiving := beq_iff_eq.mp hsel
    exact decodeRx_esc
  | rxXdata b =>
    obtain rfl : st = .escaping := beq_iff_eq.mp hsel
    exact decodeRx_escaping (bne_iff_ne.mp hwf)
  | rxData b =>
    obtain rfl : st = .receiving := beq_iff_eq.mp hsel
    exact decodeRx_literal (by simpa [Instr.wellFormed] using hwf)
  | txReserved => exact decodeTx_reserved BitVec.extractLsb'_append_eq_left
  | txOpen => exact decodeTx_open BitVec.extractLsb'_append_eq_left
  | txByte b => exact decodeTx_byteWord b
  | txClose => exact decodeTx_close BitVec.extractLsb'_append_eq_left
  | crcClear => exact decodeCrc_clear BitVec.extractLsb'_append_eq_left
  | crcUpdate b => exact decodeCrc_updateWord b
  | reset => rfl

/-! ### What is decoded -/

/-- Only RX's operations have an operand or a state that can be wrong (30_encoding R38). -/
theorem wellFormed_and_selectedIn_of_not_rx {i : Instr} (st : RxState) (hu : unitOf i ≠ .rx) :
    i.wellFormed = true ∧ i.selectedIn st = true := by
  cases i with
  | rxStart | rxIgnore | rxEnd | rxEsc | rxXdata _ | rxData _ => exact absurd rfl hu
  | txReserved | txOpen | txByte _ | txClose | crcClear | crcUpdate _ | reset => exact ⟨rfl, rfl⟩

theorem decodeRx_wellFormed_and_selectedIn (st : RxState) (b : Byte) :
    (decodeRx st b).wellFormed = true ∧ (decodeRx st b).selectedIn st = true := by
  rcases decodeRx_cases st b with
    ⟨-, h⟩ | ⟨rfl, -, h⟩ | ⟨rfl, -, h⟩ | ⟨rfl, -, h⟩ | ⟨rfl, hb, h⟩ | ⟨rfl, hb, h⟩ <;> rw [h]
  · exact ⟨rfl, rfl⟩
  · exact ⟨rfl, rfl⟩
  · exact ⟨rfl, rfl⟩
  · exact ⟨rfl, rfl⟩
  · exact ⟨bne_iff_ne.mpr hb, rfl⟩
  · exact ⟨by simp [Instr.wellFormed, hb], rfl⟩

/-- Settles O2: a raw byte by its row, any other transfer because it selects no operation of RX. -/
theorem decodedOperationIsWellFormedAndSelected : Obligations.DecodedOperationIsWellFormedAndSelected := by
  intro st t
  cases t with
  | rxIn b => exact decodeRx_wellFormed_and_selectedIn st b
  | txCmd w => exact wellFormed_and_selectedIn_of_not_rx st (by simp [decode, unitOf_decodeTx])
  | crcOp w => exact wellFormed_and_selectedIn_of_not_rx st (by simp [decode, unitOf_decodeCrc])
  | resetIn => exact ⟨rfl, rfl⟩

/-! ### The tables' rows, by match and mask -/

/-- A row of R38 with mask 0xFF takes one raw byte. -/
@[simp] theorem takes_fullMask (row : Option RxState) (v : Byte) (op : Byte → Instr) (st : RxState) (b : Byte) :
    RxRow.takes ⟨row, v, 0xFF#8, op⟩ st b = ((row == none || row == some st) && b == v) := by
  have hmask : b &&& 0xFF#8 = b := BitVec.and_allOnes
  simp only [RxRow.takes, hmask]

/-- A row of R38 with match and mask 0x00 takes every raw byte. -/
@[simp] theorem takes_zeroMask (row : Option RxState) (op : Byte → Instr) (st : RxState) (b : Byte) :
    RxRow.takes ⟨row, 0x00#8, 0x00#8, op⟩ st b = (row == none || row == some st) := by
  simp [RxRow.takes]

/-- Settles O3: in each case of `decodeRx_cases` the rows above the case's own are for another state or another
byte. -/
theorem rxDecodingTakesFirstMatchingRow : Obligations.RxDecodingTakesFirstMatchingRow := by
  intro st b
  rcases decodeRx_cases st b with
    ⟨rfl, h⟩ | ⟨rfl, hb, h⟩ | ⟨rfl, rfl, h⟩ | ⟨rfl, rfl, h⟩ | ⟨rfl, hb, h⟩ | ⟨rfl, hb, h⟩ <;> rw [h]
  · simp [rxRows, sof]
  · have hsof : b ≠ 0x55#8 := hb
    simp [rxRows, hsof]
  · rfl
  · rfl
  · have hsof : b ≠ 0x55#8 := hb
    simp [rxRows, hsof]
  · have hne : b ≠ 0x55#8 ∧ b ≠ 0x5A#8 ∧ b ≠ 0x50#8 := (not_or.mp (reserved_eq_false_iff.mp hb)).imp_right not_or.mp
    simp [rxRows, hne]

/-- Where a mask keeps a word's bits from `start` on, the masked word has the same ones. -/
theorem extractLsb'_eq_of_masked {n start len : Nat} {w m c : BitVec n}
    (hm : m.extractLsb' start len = BitVec.allOnes len) (h : w &&& m = c) :
    w.extractLsb' start len = c.extractLsb' start len := by
  rw [← h, BitVec.extractLsb'_and, hm, BitVec.and_allOnes]

/-- Settles O4: the masks 0x300 and 0x100 keep exactly the code bits. -/
theorem commandWordsDecodeByMask : Obligations.CommandWordsDecodeByMask := by
  have htx {w c : TxWord} (h : w &&& 0x300 = c) : w.extractLsb' 8 2 = c.extractLsb' 8 2 :=
    extractLsb'_eq_of_masked (by decide) h
  have hcrc {w c : CrcWord} (h : w &&& 0x100 = c) : w.extractLsb' 8 1 = c.extractLsb' 8 1 :=
    extractLsb'_eq_of_masked (by decide) h
  refine ⟨fun w => ⟨fun h => decodeTx_reserved (htx h), fun h => decodeTx_open (htx h), fun h => ?_,
    fun h => decodeTx_close (htx h)⟩, fun w => ⟨fun h => decodeCrc_clear (hcrc h), fun h => ?_⟩⟩
  · rw [BitVec.setWidth_eq_extractLsb' (by decide)]
    exact decodeTx_byte (htx h)
  · rw [BitVec.setWidth_eq_extractLsb' (by decide)]
    exact decodeCrc_update (hcrc h)

end Sys2Proof
end

section
/-! PROOF. The commands whose word carries a byte (O17, O19), and the receiver on a byte escaped without need
(O43). -/

namespace Sys2Proof.Machine

/-! ### The commands that carry a byte -/

/-- Settles O17: the word's code selects CRC.UPDATE, whose meaning is the claim. -/
theorem crcUpdateCompletes : Obligations.CrcUpdateCompletes := fun _ b => ⟨decodeCrc_updateWord b, rfl⟩

theorem exec_txByte_active (b : Byte) {s : State} (h : s.txState = .active) :
    exec (.txByte b) s = .next { emit (esc b) s with txCrc := crc8Update s.txCrc b } :=
  whenTx_eq_next.mpr ⟨h, rfl⟩

/-- Settles O19: one lemma for `TxActive`, read for a reserved and for another byte. -/
theorem txByteCompletes : Obligations.TxByteCompletes := by
  refine fun s b => ⟨decodeTx_byteWord b, fun hst hb => ?_, fun hst hb => ?_, fun hst => ?_⟩
  · rw [exec_txByte_active b hst, esc_of_reserved ((reserved_iff b).mpr hb)]
    rfl
  · rw [exec_txByte_active b hst, esc_of_not_reserved (reserved_eq_false_iff.mpr hb)]
    rfl
  · simp [exec, execTxByte, whenTx, hst]

/-! ### A byte escaped without need -/

theorem rxStream_singleton (b : Byte) (s : State) : rxStream [b] s = rxStep b s := by
  unfold rxStream
  cases rxStep b s <;> rfl

theorem rxStep_escByte {s : State} (h : s.rxState = .receiving) :
    rxStep escByte s = .next { s with rxState := .escaping } := by
  rw [rxStep, h, decodeRx_esc]
  exact whenSelected_eq_next.mpr ⟨by simp [h], rfl⟩

theorem rxStep_literal {b : Byte} {s : State} (h : s.rxState = .receiving) (hb : reserved b = false) :
    rxStep b s = acceptByte b s := by
  simp [rxStep, h, decodeRx_literal hb, exec, execRxData, whenSelected, hb, literalOperand]

theorem rxStep_escaped {b : Byte} {s : State} (h : s.rxState = .escaping) (hb : b ≠ sof) :
    rxStep b s = acceptByte (complement b) s := by
  simp [rxStep, h, decodeRx_escaping hb, exec, execRxXdata, whenSelected, hb, escapedOperand]

/-- Taking a decoded byte does not depend on `rx_state`: it writes it in every case. -/
theorem acceptByte_setRxState (v : Byte) (st : RxState) (s : State) :
    acceptByte v { s with rxState := st } = acceptByte v s := by
  have hcause : appendCause { s with rxState := st } = appendCause s := rfl
  unfold acceptByte
  rw [hcause]
  cases hc : appendCause s with
  | some c =>
    obtain ⟨rfl, -⟩ := appendCause_eq hc
    rfl
  | none =>
    unfold bufAppend memWrite
    cases inSpace s.cfg s.rxLen <;> rfl

@[simp] theorem complement_complement (b : Byte) : complement (complement b) = b := by
  simp [complement]

theorem complement_eq_iff {b c : Byte} : complement b = c ↔ b = complement c :=
  ⟨fun h => by rw [← h, complement_complement], fun h => by rw [h, complement_complement]⟩

/-- Settles O43: after the escape byte the complement is the start marker, which reopens the frame, or it is
decoded back to the byte, which is then taken as the byte itself is. -/
theorem nonCanonicalEscapeIsAccepted : Obligations.NonCanonicalEscapeIsAccepted := by
  intro s v hst hv
  have hpair : rxStream [0x50, v ^^^ 0xFF] s = rxStep (complement v) { s with rxState := .escaping } :=
    (rxStream_cons_next (rxStep_escByte hst)).trans (rxStream_singleton _ _)
  have hsof : complement v = sof ↔ v = 0xAA := complement_eq_iff
  rw [hpair]
  refine ⟨fun hne => ?_, fun heq => ?_⟩
  · rw [rxStep_escaped rfl (mt hsof.mp hne), complement_complement, acceptByte_setRxState, rxStream_singleton,
      rxStep_literal hst hv]
  · rw [hsof.mpr heq, rxStep_sof]
    rfl

end Sys2Proof.Machine
end

section
/-! PROOF. The CRC8 update: linear and invertible (O12, O13), what residue zero means (O14), the detection of one
wrong byte (O15), and CRC.CLEAR (O16). All five rest on one iteration of R46 written bit by bit
(`getLsbD_crcShift`): it is linear, and bit 7 of its result is the bit it shifted out. -/

namespace Sys2Proof.Machine

/-! ### One iteration of R46, and any number of them -/

theorem getLsbD_crcShift (x : Byte) (i : Nat) :
    (crcShift x).getLsbD i = xor (x.getLsbD (i + 1)) (x.getLsbD 0 && poly.getLsbD i) := by
  unfold crcShift
  cases x.getLsbD 0 <;> simp [Nat.add_comm 1]

theorem crcShift_xor (x y : Byte) : crcShift (x ^^^ y) = crcShift x ^^^ crcShift y := by
  apply BitVec.eq_of_getLsbD_eq
  intro i _
  simp only [BitVec.getLsbD_xor, getLsbD_crcShift, Bool.and_xor_distrib_right, Bool.xor_assoc,
    Bool.xor_left_comm]

/-- The bit shifted out stands in bit 7 of the result, since bit 7 of the tap mask is set (R51). -/
theorem getLsbD_crcShift_seven (x : Byte) : (crcShift x).getLsbD 7 = x.getLsbD 0 := by
  have htop : x.getLsbD 8 = false := BitVec.getLsbD_of_ge x 8 le_rfl
  have hpoly : poly.getLsbD 7 = true := by decide
  rw [getLsbD_crcShift, htop, hpoly, Bool.and_true, Bool.false_xor]

theorem crcShift_injective : Function.Injective crcShift := by
  intro x y h
  have hlow : x.getLsbD 0 = y.getLsbD 0 := by
    rw [← getLsbD_crcShift_seven, h, getLsbD_crcShift_seven]
  apply BitVec.eq_of_getLsbD_eq
  intro i _
  cases i with
  | zero => exact hlow
  | succ i =>
    have hi : (crcShift x).getLsbD i = (crcShift y).getLsbD i := by rw [h]
    rw [getLsbD_crcShift, getLsbD_crcShift, hlow] at hi
    exact Bool.xor_left_inj.mp hi

theorem crcShifts_xor (n : Nat) (x y : Byte) : crcShifts n (x ^^^ y) = crcShifts n x ^^^ crcShifts n y := by
  induction n generalizing x y with
  | zero => rfl
  | succ n ih => simp only [crcShifts, crcShift_xor, ih]

theorem crcShifts_injective (n : Nat) : Function.Injective (crcShifts n) := by
  induction n with
  | zero => exact Function.injective_id
  | succ n ih => exact ih.comp crcShift_injective

/-! ### The table and the update -/

theorem crcTable_eq_crcShifts (x : Byte) : crcTable x = crcShifts 8 x := by
  simp [crcTable, crc8Update]

theorem crc8Update_eq_crcTable (acc b : Byte) : crc8Update acc b = crcTable (acc ^^^ b) :=
  (crcTable_eq_crcShifts _).symm

theorem crcTable_xor (x y : Byte) : crcTable (x ^^^ y) = crcTable x ^^^ crcTable y := by
  simp only [crcTable_eq_crcShifts, crcShifts_xor]

@[simp] theorem crcTable_zero : crcTable 0x00 = 0x00 := by decide

/-- Settles O12: the iterations are linear, and the single-bit entries are computed. -/
theorem crcTableIsLinear : Obligations.CrcTableIsLinear :=
  ⟨crc8Update_eq_crcTable, crcTable_xor, crcTable_zero, by decide⟩

theorem crcTable_injective : Function.Injective crcTable := by
  intro x y h
  rw [crcTable_eq_crcShifts, crcTable_eq_crcShifts] at h
  exact crcShifts_injective 8 h

theorem crc8Update_left_injective (b : Byte) : Function.Injective fun acc => crc8Update acc b := by
  intro x y h
  simp only [crc8Update_eq_crcTable] at h
  exact (BitVec.xor_left_inj b).mp (crcTable_injective h)

theorem crc8Update_right_injective (acc : Byte) : Function.Injective (crc8Update acc) := by
  intro x y h
  rw [crc8Update_eq_crcTable, crc8Update_eq_crcTable] at h
  exact (BitVec.xor_right_inj acc).mp (crcTable_injective h)

/-- Settles O13: each of the maps is injective, and the bytes are finitely many. -/
theorem crcUpdateIsBijective : Obligations.CrcUpdateIsBijective :=
  ⟨Finite.injective_iff_bijective.mp crcTable_injective,
    fun b => Finite.injective_iff_bijective.mp (crc8Update_left_injective b),
    fun acc => Finite.injective_iff_bijective.mp (crc8Update_right_injective acc)⟩

/-! ### The CRC8 of a sequence -/

@[simp] theorem crc8Update_self (a : Byte) : crc8Update a a = 0x00 := by
  rw [crc8Update_eq_crcTable, BitVec.xor_self]
  exact crcTable_zero

theorem crc8Update_eq_zero_iff (a c : Byte) : crc8Update a c = 0x00 ↔ c = a := by
  rw [← crc8Update_self a]
  exact (crc8Update_right_injective a).eq_iff

/-- Settles O14: the last update is zero only on the accumulator's own value. -/
theorem residueZeroIffOwnChecksum : Obligations.ResidueZeroIffOwnChecksum := by
  intro a c x
  rw [crc8From_snoc]
  exact crc8Update_eq_zero_iff _ c

/-- Different accumulators stay different over the same bytes. -/
theorem crc8From_injective (s : List Byte) : Function.Injective fun a => crc8From a s := by
  induction s with
  | nil => exact Function.injective_id
  | cons b s ih => exact ih.comp (crc8Update_left_injective b)

/-- Settles O15: the accumulators differ just after the wrong byte, and over the bytes after it they stay
different. -/
theorem crcDetectsOneWrongByte : Obligations.CrcDetectsOneWrongByte := by
  intro a v w p q hne h
  simp only [crc8From_append, crc8From_cons] at h
  exact hne (crc8Update_right_injective _ (crc8From_injective q h))

/-! ### CRC.CLEAR -/

/-- Settles O16: the clear's meaning is the claim. -/
theorem crcClearCompletes : Obligations.CrcClearCompletes := fun _ => rfl

end Sys2Proof.Machine
end

section
/-! PROOF. The frame on the wire: its closed form (O8) and its transparency (O9). A frame is taken apart into the escape
codes of the bytes and of the checksum; what holds of one escape code then holds of all. -/

namespace Sys2Proof.Machine

/-! ### The closed form -/

/-- The body of a frame is the escape code of the bytes with their checksum after them: the checksum is escaped as a
data byte is. -/
theorem encodeBody_eq_flatMap (c : Byte) (x : List Byte) :
    encodeBody c x = (x ++ [crc8From c x]).flatMap esc := by
  induction x generalizing c with
  | nil => simp [encodeBody_nil]
  | cons b x ih => rw [encodeBody_cons, ih, crc8From_cons, List.cons_append, List.flatMap_cons]

/-- Settles O8: the loop's body in closed form, between the two markers. -/
theorem encodeClosedForm : Obligations.EncodeClosedForm := by
  intro c x
  rw [encodeFrame, encodeBody_eq_flatMap, List.flatMap_append, List.flatMap_singleton, ← List.append_assoc]
  rfl

/-! ### Transparency -/

theorem complement_of_reserved {b : Byte} (h : reserved b = true) :
    reserved (complement b) = false ∧ (complement b = 0xAA ∨ complement b = 0xA5 ∨ complement b = 0xAF) := by
  refine ⟨(escapePairs.2 _ _ _ (esc_of_reserved h)).1, ?_⟩
  obtain ⟨-, hpair⟩ := esc_eq_pair_cases.mp (esc_of_reserved h)
  exact hpair.imp And.right (Or.imp And.right And.right)

/-- The escape code gives no marker. -/
theorem ne_marker_of_mem_esc {b y : Byte} (h : y ∈ esc b) : y ≠ sof ∧ y ≠ eof := by
  have hy : y = escByte ∨ reserved y = false := by
    cases hb : reserved b with
    | true =>
      rw [esc_of_reserved hb, List.mem_pair] at h
      exact h.imp_right fun (hc : y = complement b) => hc ▸ (complement_of_reserved hb).1
    | false =>
      rw [esc_of_not_reserved hb, List.mem_singleton] at h
      exact .inr (h ▸ hb)
  rcases hy with rfl | hy
  · decide
  · rw [reserved_eq_false_iff, not_or, not_or] at hy
    exact ⟨hy.1, hy.2.1⟩

theorem ne_marker_of_mem_encodeBody {c y : Byte} {x : List Byte} (h : y ∈ encodeBody c x) :
    y ≠ sof ∧ y ≠ eof := by
  rw [encodeBody_eq_flatMap] at h
  obtain ⟨b, -, hy⟩ := List.mem_flatMap.mp h
  exact ne_marker_of_mem_esc hy

/-- Each escape byte has after it, in the same sequence, the complement of a reserved byte. -/
def EscapesPaired (w : List Byte) : Prop :=
  ∀ k : Nat, w[k]? = some escByte → ∃ b, reserved b = true ∧ w[k + 1]? = some (complement b)

theorem escapesPaired_of_notMem {w : List Byte} (h : escByte ∉ w) : EscapesPaired w :=
  fun _ hk => absurd (List.mem_of_getElem? hk) h

theorem EscapesPaired.append {p q : List Byte} (hp : EscapesPaired p) (hq : EscapesPaired q) :
    EscapesPaired (p ++ q) := by
  intro k hk
  by_cases hlt : k < p.length
  · rw [List.getElem?_append_left hlt] at hk
    obtain ⟨b, hb, hnext⟩ := hp k hk
    obtain ⟨hlt', -⟩ := List.getElem?_eq_some_iff.mp hnext
    exact ⟨b, hb, (List.getElem?_append_left hlt').trans hnext⟩
  · rw [List.getElem?_append_right (by omega)] at hk
    obtain ⟨b, hb, hnext⟩ := hq _ hk
    refine ⟨b, hb, ?_⟩
    rw [List.getElem?_append_right (by omega), Nat.sub_add_comm (by omega), hnext]

theorem escapesPaired_esc (b : Byte) : EscapesPaired (esc b) := by
  cases hb : reserved b with
  | true =>
    rw [esc_of_reserved hb]
    have htail : EscapesPaired [complement b] := escapesPaired_of_notMem fun hmem => by
      have hc := (complement_of_reserved hb).1
      rw [← List.mem_singleton.mp hmem] at hc
      exact absurd hc (by decide)
    rintro (_ | k) hk
    · exact ⟨b, hb, rfl⟩
    · exact htail k hk
  | false =>
    rw [esc_of_not_reserved hb]
    refine escapesPaired_of_notMem fun hmem => ?_
    rw [← List.mem_singleton.mp hmem] at hb
    exact absurd hb (by decide)

theorem escapesPaired_flatMap_esc (x : List Byte) : EscapesPaired (x.flatMap esc) := by
  induction x with
  | nil => exact escapesPaired_of_notMem List.not_mem_nil
  | cons b x ih => exact List.flatMap_cons ▸ (escapesPaired_esc b).append ih

theorem escapesPaired_encodeFrame (c : Byte) (x : List Byte) : EscapesPaired (encodeFrame c x) := by
  have hbody : EscapesPaired (encodeBody c x) := encodeBody_eq_flatMap c x ▸ escapesPaired_flatMap_esc _
  have hsof : EscapesPaired [sof] := escapesPaired_of_notMem (by decide)
  have heof : EscapesPaired [eof] := escapesPaired_of_notMem (by decide)
  exact (hsof.append hbody).append heof

/-- Settles O9: the body holds no marker, and every escape byte of a frame has its second byte. -/
theorem encodeIsTransparent : Obligations.EncodeIsTransparent := by
  intro c x
  have hsof : (encodeBody c x).count sof = 0 :=
    List.count_eq_zero.mpr fun h => (ne_marker_of_mem_encodeBody h).1 rfl
  have heof : (encodeBody c x).count eof = 0 :=
    List.count_eq_zero.mpr fun h => (ne_marker_of_mem_encodeBody h).2 rfl
  refine ⟨rfl, ?_, List.getLast?_concat, ?_, fun k hk => ?_⟩
  · show (encodeFrame c x).count sof = 1
    rw [encodeFrame, List.count_append, List.count_append, hsof]
    rfl
  · show (encodeFrame c x).count eof = 1
    rw [encodeFrame, List.count_append, List.count_append, heof]
    rfl
  · obtain ⟨b, hb, hnext⟩ := escapesPaired_encodeFrame c x k hk
    rw [hnext]
    simpa using (complement_of_reserved hb).2

end Sys2Proof.Machine
end

section
/-! PROOF. The commands of the encoder (O18, O20, O21), the frame they send one after another (O22), and why a producer
that keeps its duty is never refused (O23). -/

namespace Sys2Proof.Machine

/-! ### The commands by the encoder's state -/

theorem exec_txOpen_idle {s : State} (h : s.txState = .idle) :
    exec .txOpen s = .next { txCrcClear (emit [sof] s) with txState := .active } :=
  whenTx_eq_next.mpr ⟨h, rfl⟩

theorem exec_txClose_active {s : State} (h : s.txState = .active) :
    exec .txClose s = .next { txCrcClear (emit (esc s.txCrc ++ [eof]) s) with txState := .idle } :=
  whenTx_eq_next.mpr ⟨h, rfl⟩

theorem whenTx_of_ne {st : TxState} {s : State} (t : State) (h : s.txState ≠ st) :
    whenTx st s t = .refused .txOutOfSequence :=
  if_neg h

/-- Settles O18, one lemma for each state of TX. -/
theorem txOpenCompletes : Obligations.TxOpenCompletes :=
  fun _ => ⟨exec_txOpen_idle, fun h => whenTx_of_ne _ (by simp [h])⟩

/-- Settles O20, one lemma for each state of TX. -/
theorem txCloseCompletes : Obligations.TxCloseCompletes := by
  refine fun s => ⟨fun h => ?_, fun h => whenTx_of_ne _ (by simp [h])⟩
  rw [exec_txClose_active h]
  simp [emit, txCrcClear, eof, Nat.add_assoc]

/-- Settles O21: the word's code selects TX.RESERVED, which has no step. -/
theorem txReservedCodeIsRefused : Obligations.TxReservedCodeIsRefused :=
  fun _ _ => ⟨decodeTx_reserved BitVec.extractLsb'_append_eq_left, rfl⟩

/-! ### A frame sent command by command -/

/-- `s` after the bytes `x` have been sent in an open frame. -/
def sent (x : List Byte) (s : State) : State :=
  { emit (x.flatMap esc) s with txCrc := crc8From s.txCrc x }

theorem sent_nil (s : State) : sent [] s = s := by simp [sent, emit]

theorem sent_sent (x y : List Byte) (s : State) : sent y (sent x s) = sent (x ++ y) s := by
  simp [sent, emit, crc8From_append, Nat.add_assoc]

theorem exec_txByte_eq_sent (b : Byte) {s : State} (h : s.txState = .active) :
    exec (.txByte b) s = .next (sent [b] s) := by
  simp [exec_txByte_active b h, sent]

theorem execAll_txBytes {s : State} (x : List Byte) (h : s.txState = .active) :
    execAll (x.map Instr.txByte) s = .next (sent x s) := by
  induction x generalizing s with
  | nil => rw [sent_nil, List.map_nil, execAll]
  | cons b x ih =>
    have hrest : execAll (x.map Instr.txByte) (sent [b] s) = .next (sent x (sent [b] s)) := ih h
    rw [List.map_cons, execAll_cons_next (exec_txByte_eq_sent b h), hrest, sent_sent, List.singleton_append]

theorem execAll_txOpen_txBytes {s : State} (x : List Byte) (h : s.txState = .idle) :
    execAll ([.txOpen] ++ x.map Instr.txByte) s =
      .next (sent x { txCrcClear (emit [sof] s) with txState := .active }) :=
  (execAll_cons_next (exec_txOpen_idle h)).trans (execAll_txBytes x rfl)

/-- Settles O22: the open and the bytes by induction on the bytes, then the close; what they emit is the closed form of
`Encode`. -/
theorem txFrameEmitsEncode : Obligations.TxFrameEmitsEncode := by
  intro s x h
  have hbytes := execAll_txOpen_txBytes x h
  refine ⟨?_, _, hbytes, rfl, rfl⟩
  rw [txFrame, execAll_append_next hbytes, execAll_cons_next (exec_txClose_active rfl), execAll]
  simp +arith [sent, emit, txCrcClear, encodeFrame, encodeBody_eq_flatMap]

/-! ### A producer that keeps its duty -/

/-- Settles O23: one case for each command in order, after which the rest is in order from TX's next state. -/
theorem producerInOrderIsNeverRefused : Obligations.ProducerInOrderIsNeverRefused := by
  intro s cmds
  generalize hst : s.txState = st
  induction st, cmds using producerInOrder.induct generalizing s with
  | case1 => exact fun _ => ⟨s, rfl⟩
  | case2 rest ih => exact fun h => execAll_cons_next (exec_txOpen_idle hst) ▸ ih _ rfl h
  | case3 b rest ih => exact fun h => execAll_cons_next (exec_txByte_active b hst) ▸ ih _ hst h
  | case4 rest ih => exact fun h => execAll_cons_next (exec_txClose_active hst) ▸ ih _ rfl h
  | case5 => simp [producerInOrder]

end Sys2Proof.Machine
end

section
/-! PROOF. The turns at which the block goes on without an operation (O58), and all that can stop a step under the
invariant (O52). -/

namespace Sys2Proof.Machine

theorem fetch_of_turn {s : State} {τ : Turn} {ts : List Turn} (hr : s.resetIn = false) (ht : s.turns = τ :: ts) :
    fetch s = takeTurn τ { s with turns := ts } := by
  simp [fetch, hr, ht]

theorem step_of_waiting_turn {s u : State} {τ : Turn} {ts : List Turn} (hr : s.resetIn = false)
    (ht : s.turns = τ :: ts) (h : takeTurn τ { s with turns := ts } = .wait u) : step s = .next u :=
  step_of_wait ((fetch_of_turn hr ht).trans h)

theorem fetchTx_of_untaken {s : State} (h : s.txUntaken ≠ 0) : fetchTx s = .wait s := by
  rcases fetchTx_cases s with hw | ⟨_, _, _, hu, _⟩
  · exact hw
  · exact absurd hu h

/-- Settles O58: the encoder's turn passes, and the sink's takes one byte. -/
theorem encoderWaitsForSink : Obligations.EncoderWaitsForSink := fun _ _ hr =>
  ⟨fun ht hu => step_of_waiting_turn hr ht (fetchTx_of_untaken hu), fun ht => step_of_waiting_turn hr ht rfl⟩

/-- Settles O52: a turn passes or performs one operation; RX's completes under the invariant, the CRC8 unit's and RESET
always do. -/
theorem onlyEncoderCommandsStop : Obligations.OnlyEncoderCommandsStop := by
  intro s hi
  rcases fetch_cases s with ⟨hr, -⟩ | ⟨hr, ⟨-, hf⟩ | ⟨τ, ts, ht, hf⟩⟩
  · exact .inl ⟨_, step_of_resetIn hr⟩
  · exact .inl ⟨s, step_of_wait hf⟩
  cases τ with
  | rx =>
    left
    rcases fetchRx_cases { s with turns := ts } with hw | ⟨b, rest, -, -, hrun⟩
    · exact ⟨_, step_of_wait (hf.trans hw)⟩
    · rw [step_of_run (hf.trans hrun)]
      have hpop : State.Inv { s with turns := ts, rxIn := rest } := inv_of_sameFrames { SameFrames.refl s with } hi
      exact rxStep_completes b hpop
  | tx =>
    rcases fetchTx_cases { s with turns := ts } with hw | ⟨w, rest, -, -, hrun⟩
    · exact .inl ⟨_, step_of_wait (hf.trans hw)⟩
    · rw [step_of_run (hf.trans hrun), ht]
      exact (exec_tx_completes_or_refused _ (unitOf_decodeTx w)).imp_right fun h => ⟨hr, rfl, h⟩
  | crc =>
    left
    rcases fetchCrc_cases { s with turns := ts } with hw | ⟨w, rest, -, hrun⟩
    · exact ⟨_, step_of_wait (hf.trans hw)⟩
    · rw [step_of_run (hf.trans hrun)]
      exact exec_crc_completes _ (unitOf_decodeCrc w)
  | consumer | sink | resetDriver => exact .inl ⟨_, step_of_wait hf⟩

end Sys2Proof.Machine
end

section
/-! PROOF. The operations of the receiver one by one (O25, O26, O27, O29, O30, O31), that every raw byte is taken (O32),
and what a step does at the turns of RX, of the consumer and of a unit without an input (O54, O57, O59). -/

namespace Sys2Proof.Machine

/-! ### A fresh frame, nothing, an escape byte -/

/-- Settles O25: the start marker is the first row of R38, and an abandoned frame leaves nothing behind. -/
theorem rxStartCompletes : Obligations.RxStartCompletes := fun s => ⟨decodeRx_sof s.rxState, execRxStart_eq s⟩

theorem exec_rxIgnore_idle {s : State} (h : s.rxState = .idle) : exec .rxIgnore s = .next s :=
  whenSelected_eq_next.mpr ⟨by simp [h], rfl⟩

/-- Settles O26: in `Idle` the row of RX.IGNORE takes what the start marker's row leaves. -/
theorem rxIgnoreCompletes : Obligations.RxIgnoreCompletes := fun _ _ h hb =>
  ⟨h ▸ decodeRx_idle hb, exec_rxIgnore_idle h⟩

/-- Settles O29: in `Receiving` the escape byte selects RX.ESC, whose meaning is the claim. -/
theorem rxEscCompletes : Obligations.RxEscCompletes := fun _ h =>
  ⟨h ▸ decodeRx_esc, whenSelected_eq_next.mpr ⟨by simp [h], rfl⟩⟩

/-! ### The end of a frame -/

/-- Settles O27: the two ways RX.END can end, each from its own condition. -/
theorem rxEndCompletes : Obligations.RxEndCompletes := fun _ h =>
  ⟨h ▸ decodeRx_eof, fun hdrop => execRxEnd_eq_next.mpr ⟨h, .inl ⟨hdrop, rfl⟩⟩,
    fun p hres hlen hp => execRxEnd_eq_next.mpr ⟨h, .inr ⟨hres, hlen, p, hp, rfl⟩⟩⟩

/-! ### A decoded byte -/

theorem acceptByte_of_full (v : Byte) {s : State} (h : s.cfg.bufCap = some s.rxLen) :
    acceptByte v s = .next (toIdle s) :=
  acceptByte_eq_next.mpr (.inl ⟨bufFull_iff.mpr h, rfl⟩)

theorem acceptByte_of_room (v : Byte) {s : State} (hfits : fitsCap s.cfg s.rxLen = true)
    (h : s.cfg.bufCap ≠ some s.rxLen) : acceptByte v s = .next (appended v s) := by
  have hfull : bufFull s = false := Bool.eq_false_iff.mpr (mt bufFull_iff.mp h)
  exact acceptByte_eq_next.mpr (.inr ⟨hfull, inSpace_of_fitsCap hfits hfull, rfl⟩)

theorem exec_rxXdata {b : Byte} {s : State} (h : s.rxState = .escaping) (hb : b ≠ sof) :
    exec (.rxXdata b) s = acceptByte (complement b) s := by
  rw [← rxStep_escaped h hb, rxStep, h, decodeRx_escaping hb]

theorem exec_rxData {b : Byte} {s : State} (h : s.rxState = .receiving) (hb : reserved b = false) :
    exec (.rxData b) s = acceptByte b s := by
  rw [← rxStep_literal h hb, rxStep, h, decodeRx_literal hb]

/-- Settles O30: RX.XDATA takes the complement as its decoded byte. -/
theorem rxXdataCompletes : Obligations.RxXdataCompletes := by
  intro s b h hb hfits
  rw [exec_rxXdata h hb]
  exact ⟨h ▸ decodeRx_escaping hb, acceptByte_of_room _ hfits, acceptByte_of_full _⟩

/-- Settles O31: RX.DATA takes the raw byte as its decoded byte, and `rx_state` stays as it is. -/
theorem rxDataCompletes : Obligations.RxDataCompletes := by
  intro s b h hsof heof hesc hfits
  have hb : reserved b = false := reserved_eq_false_iff.mpr (by rintro (rfl | rfl | rfl) <;> contradiction)
  rw [exec_rxData h hb]
  refine ⟨h ▸ decodeRx_literal hb, fun hroom => ?_, acceptByte_of_full _⟩
  rw [acceptByte_of_room _ hfits hroom, appended, ← h]

/-- Settles O32: the invariant gives the room for an append and the bytes for a delivery. -/
theorem rxStepIsTotal : Obligations.RxStepIsTotal := fun _ b hi => rxStep_completes b hi

/-! ### The turns -/

/-- Settles O54: with no packet pending RX waits for nobody. -/
theorem stepRunsTheRawByte : Obligations.StepRunsTheRawByte := fun _ _ _ _ hr ht hin hp =>
  step_at_rx_turn hr ht hin hp

theorem fetchRx_of_pending {s : State} (h : s.pktPending = true) : fetchRx s = .wait s := by
  rcases fetchRx_cases s with hw | ⟨_, _, _, hp, _⟩
  · exact hw
  · simp [h] at hp

/-- Settles O57: the receiver's turn passes, and the consumer's ends what it waits for. -/
theorem receiverWaitsForConsumer : Obligations.ReceiverWaitsForConsumer := fun _ _ hr =>
  ⟨fun ht hp => step_of_waiting_turn hr ht (fetchRx_of_pending hp), fun ht => step_of_waiting_turn hr ht rfl⟩

/-- Settles O59: without a turn nothing moves, and at a turn without an input it is the turn alone that passes. -/
theorem stepWithNothingPresented : Obligations.StepWithNothingPresented := fun _ _ hr =>
  ⟨fun ht => step_of_exhausted ht hr,
    fun ht hin => step_of_waiting_turn hr ht (by simp [takeTurn, fetchRx, hin]),
    fun ht hcmd => step_of_waiting_turn hr ht (by simp [takeTurn, fetchTx, hcmd]),
    fun ht hop => step_of_waiting_turn hr ht (by simp [takeTurn, fetchCrc, hop]),
    fun ht => step_of_waiting_turn hr ht rfl⟩

end Sys2Proof.Machine
end

section
/-! PROOF. When RX delivers (O35), and that what it delivers was followed by its own checksum (O36). -/

namespace Sys2Proof.Machine

/-- RX.END is selected by the end marker in `Receiving` and by nothing else (30_encoding R38). -/
theorem decodeRx_eq_rxEnd {st : RxState} {b : Byte} (h : decodeRx st b = .rxEnd) : st = .receiving ∧ b = eof := by
  rcases decodeRx_cases st b with
    ⟨-, hd⟩ | ⟨-, -, hd⟩ | ⟨hst, hb, -⟩ | ⟨-, -, hd⟩ | ⟨-, -, hd⟩ | ⟨-, -, hd⟩
  case inr.inr.inl => exact ⟨hst, hb⟩
  all_goals exact nomatch hd.symm.trans h

theorem rxStep_eof {s : State} (h : s.rxState = .receiving) : rxStep eof s = execRxEnd s := by
  rw [rxStep, h, decodeRx_eof]
  rfl

theorem rxStep_eof_drops {s : State} (h : s.rxState = .receiving) (hdrop : ¬ (s.rxCrc = 0x00 ∧ 4 ≤ s.rxLen)) :
    rxStep eof s = .next (toIdle s) :=
  (rxStep_eof h).trans (execRxEnd_eq_next.mpr ⟨h, .inl ⟨hdrop, rfl⟩⟩)

theorem rxStep_eof_delivers {s : State} {p : List Byte} (h : s.rxState = .receiving) (hres : s.rxCrc = 0x00)
    (hlen : 4 ≤ s.rxLen) (hp : bufBytes s (s.rxLen - 1) = some p) :
    rxStep eof s = .next (toIdle (deliver p s)) :=
  (rxStep_eof h).trans (execRxEnd_eq_next.mpr ⟨h, .inr ⟨hres, hlen, p, hp, rfl⟩⟩)

/-- Settles O35: only RX.END writes the packets, and it delivers on its own condition alone. -/
theorem deliversExactlyWhen : Obligations.DeliversExactlyWhen := by
  intro s t b h
  constructor
  · rintro ⟨hst, rfl, hres, hlen⟩
    obtain ⟨-, ⟨hdrop, -⟩ | ⟨-, -, p, hp, rfl⟩⟩ := execRxEnd_eq_next.mp ((rxStep_eof hst).symm.trans h)
    · exact absurd ⟨hres, hlen⟩ hdrop
    · exact ⟨p, hp, rfl⟩
  · intro hno
    by_cases hend : decodeRx s.rxState b = .rxEnd
    · obtain ⟨hst, rfl⟩ := decodeRx_eq_rxEnd hend
      obtain ⟨-, ⟨-, rfl⟩ | ⟨hres, hlen, -⟩⟩ := execRxEnd_eq_next.mp ((rxStep_eof hst).symm.trans h)
      · rfl
      · exact absurd ⟨hst, rfl, hres, hlen⟩ hno
    · exact (exec_rx_keeps_packets (unitOf_decodeRx s.rxState b) hend h).1

/-- Reading out one byte more adds it at the end. -/
theorem bufBytes_succ_extends {s : State} {n : Nat} {p q : List Byte} (hp : bufBytes s n = some p)
    (hq : bufBytes s (n + 1) = some q) : ∃ v, q = p ++ [v] := by
  rcases List.eq_nil_or_concat' q with rfl | ⟨p', v, rfl⟩
  · exact nomatch bufBytes_length hq
  · obtain ⟨hp', -⟩ := bufBytes_succ_eq_snoc.mp hq
    exact ⟨v, by rw [Option.some.inj (hp'.symm.trans hp)]⟩

/-- Settles O36: residue zero of the whole buffer makes its last byte the checksum of the bytes before it. -/
theorem deliveredPacketHadItsOwnChecksum : Obligations.DeliveredPacketHadItsOwnChecksum := by
  intro s t b hi h hnew
  obtain ⟨hyes, hno⟩ := deliversExactlyWhen s t b h
  have hcond := not_not.mp (mt hno hnew)
  obtain ⟨p, hp, hpkt⟩ := hyes hcond
  obtain ⟨hst, -, hres, hlen⟩ := hcond
  obtain ⟨q, hq, hcrc⟩ := hi.crcOfBuffer
  have hp3 : 3 ≤ p.length := bufBytes_length hp ▸ Nat.le_sub_one_of_lt hlen
  obtain ⟨v, rfl⟩ : ∃ v, q = p ++ [v] :=
    bufBytes_succ_extends hp (by rwa [Nat.sub_add_cancel (Nat.one_le_of_lt hlen)])
  have hzero : crc8From s.cfg.crcInit (p ++ [v]) = 0x00 := (hcrc (by simp [hst])).symm.trans hres
  obtain rfl := (residueZeroIffOwnChecksum _ _ _).mp hzero
  exact ⟨p, hpkt, hp3, hq⟩

end Sys2Proof.Machine
end

section
/-! PROOF. RX on streams: without a start marker `Idle` stays as it is (O37), and from a start marker on nothing before
it shows (O39). -/

namespace Sys2Proof.Machine

theorem rxStep_idle {b : Byte} {s : State} (h : s.rxState = .idle) (hb : b ≠ sof) : rxStep b s = .next s := by
  rw [rxStep, h, decodeRx_idle hb, exec_rxIgnore_idle h]

/-- Settles O37, by induction on the stream: each of its bytes is ignored. -/
theorem idleIgnoresUntilStartMarker : Obligations.IdleIgnoresUntilStartMarker := by
  intro s w h hw
  induction w with
  | nil => rfl
  | cons b w ih =>
    obtain ⟨hb, hrest⟩ := List.ne_and_not_mem_of_not_mem_cons hw
    rw [rxStream_cons_next (rxStep_idle h hb.symm), ih hrest]

/-- A stream whose first byte is taken goes on from the next state. -/
theorem rxStream_cons_eq_next {b : Byte} {w : List Byte} {s t : State} :
    rxStream (b :: w) s = .next t ↔ ∃ u, rxStep b s = .next u ∧ rxStream w u = .next t := by
  cases hb : rxStep b s <;> simp [rxStream, hb]

/-- From states RX cannot tell apart each stream does the same. -/
theorem rxStream_follows {w : List Byte} {s u t : State} (hsame : RxSame s u) (h : rxStream w s = .next t) :
    RxFollows s u t (rxStream w u) := by
  induction w generalizing s u with
  | nil =>
    obtain rfl := Host.Outcome.next.inj h
    exact .silent rfl hsame rfl rfl
  | cons b w ih =>
    obtain ⟨v, hv, hw⟩ := rxStream_cons_eq_next.mp h
    obtain ⟨v', new, hv', hsame', hp, hp'⟩ := rxStep_follows hsame hv
    obtain ⟨t', new', ht', hend, hq, hq'⟩ := ih hsame' hw
    exact ⟨t', new ++ new', (rxStream_cons_next hv').trans ht', hend, by rw [hq, hp, List.append_assoc],
      by rw [hq', hp', List.append_assoc]⟩

/-- Settles O39: the start marker opens fresh frames that RX cannot tell apart, and delivers nothing. -/
theorem startMarkerResynchronises : Obligations.StartMarkerResynchronises := by
  intro s u t w hcfg h
  rw [show (0x55 : Byte) = sof from rfl, rxStream_cons_next (rxStep_sof _)] at h ⊢
  exact rxStream_follows (s := openFrame s) (rxSame_openFrame hcfg) h

end Sys2Proof.Machine
end

section
/-! PROOF. RX on a whole frame from any state (O40, O41, O42). The frame's body is decoded byte by byte (`FrameOpen`)
until the buffer overflows, after which the rest of the frame is ignored (`FrameLost`). -/

namespace Sys2Proof.Machine

/-! ### What fits in the buffer -/

/-- Fewer bytes fit where more do. -/
theorem fitsCap_mono {c : Config} {m n : Nat} (hmn : m ≤ n) (h : fitsCap c n = true) : fitsCap c m = true := by
  unfold fitsCap at *
  cases hc : c.bufCap with
  | none => rfl
  | some k =>
    simp only [hc, decide_eq_true_eq] at *
    omega

/-- There is room for one byte more exactly when the buffer is not full. -/
theorem fitsCap_succ_iff {s : State} (h : fitsCap s.cfg s.rxLen = true) :
    fitsCap s.cfg (s.rxLen + 1) = true ↔ s.cfg.bufCap ≠ some s.rxLen := by
  unfold fitsCap at *
  cases hc : s.cfg.bufCap with
  | none => simp
  | some k =>
    simp only [hc, decide_eq_true_eq, ne_eq, Option.some.injEq] at *
    omega

/-! ### A frame in progress, and a frame lost -/

/-- In `t`, RX is in the state `st` of a frame of which it has decoded `p`, and has delivered nothing since `s`. -/
structure FrameOpen (s : State) (st : RxState) (p : List Byte) (t : State) : Prop where
  cfg : t.cfg = s.cfg
  rxPkt : t.rxPkt = s.rxPkt
  rxState : t.rxState = st
  fits : fitsCap t.cfg t.rxLen = true
  bytes : bufBytes t t.rxLen = some p
  crc : t.rxCrc = crc8From s.cfg.crcInit p

/-- In `t`, RX is in `Idle`, and has delivered nothing since `s`. -/
structure FrameLost (s t : State) : Prop where
  rxPkt : t.rxPkt = s.rxPkt
  rxState : t.rxState = .idle

theorem frameOpen_openFrame (s : State) : FrameOpen s .receiving [] (openFrame s) :=
  ⟨rfl, rfl, rfl, fitsCap_zero s.cfg, rfl, rfl⟩

section
variable {s t : State} {st : RxState} {p : List Byte}

theorem FrameOpen.rxLen (h : FrameOpen s st p t) : t.rxLen = p.length := (bufBytes_length h.bytes).symm

theorem FrameOpen.lost (h : FrameOpen s st p t) : FrameLost s (toIdle t) := ⟨h.rxPkt, rfl⟩

theorem FrameOpen.escaping (h : FrameOpen s st p t) :
    FrameOpen s .escaping p { t with rxState := .escaping } :=
  { h with rxState := rfl, bytes := validBytes_of_buffer_eq h.bytes rfl rfl }

theorem FrameOpen.appended (v : Byte) (h : FrameOpen s st p t) (hfits : fitsCap s.cfg (p.length + 1) = true) :
    FrameOpen s .receiving (p ++ [v]) (appended v t) where
  cfg := h.cfg
  rxPkt := h.rxPkt
  rxState := rfl
  fits := by rwa [← h.cfg, ← h.rxLen] at hfits
  bytes := bufBytes_appended h.bytes
  crc := by rw [crc8From_snoc, ← h.crc]; rfl

/-- In a frame a decoded byte is appended where it fits. -/
theorem FrameOpen.acceptByte_fits (v : Byte) (h : FrameOpen s st p t)
    (hfits : fitsCap s.cfg (p.length + 1) = true) :
    ∃ u, acceptByte v t = .next u ∧ FrameOpen s .receiving (p ++ [v]) u := by
  have hroom : t.cfg.bufCap ≠ some t.rxLen := (fitsCap_succ_iff h.fits).mp (by rwa [h.cfg, h.rxLen])
  exact ⟨_, acceptByte_of_room v h.fits hroom, h.appended v hfits⟩

/-- In a frame a decoded byte that does not fit loses the frame (42_frame_receiver R72). -/
theorem FrameOpen.acceptByte_overflows (v : Byte) (h : FrameOpen s st p t)
    (hover : ¬ fitsCap s.cfg (p.length + 1) = true) : ∃ u, acceptByte v t = .next u ∧ FrameLost s u := by
  have hfull : t.cfg.bufCap = some t.rxLen :=
    not_not.mp (mt (fitsCap_succ_iff h.fits).mpr (by rwa [h.cfg, h.rxLen]))
  exact ⟨_, acceptByte_of_full v hfull, h.lost⟩

/-- A lost frame stays lost until the next start marker. -/
theorem FrameLost.ignores {w : List Byte} (h : FrameLost s t) (hw : sof ∉ w) : rxStream w t = .next t :=
  idleIgnoresUntilStartMarker t w h.rxState hw

end

/-! ### The body of a frame -/

/-- The escape code of a byte decodes to the byte (42_frame_receiver R70 and R71). -/
theorem rxStream_esc (b : Byte) {s : State} (h : s.rxState = .receiving) : rxStream (esc b) s = acceptByte b s := by
  cases hb : reserved b with
  | false => rw [esc_of_not_reserved hb, rxStream_singleton, rxStep_literal h hb]
  | true =>
    have hne : complement b ≠ sof := (not_or.mp (reserved_eq_false_iff.mp (complement_of_reserved hb).1)).1
    rw [esc_of_reserved hb, rxStream_cons_next (rxStep_escByte h), rxStream_singleton, rxStep_escaped rfl hne,
      complement_complement, acceptByte_setRxState]

theorem sof_notMem_flatMap_esc (y : List Byte) : sof ∉ y.flatMap esc := by
  intro h
  obtain ⟨b, -, hb⟩ := List.mem_flatMap.mp h
  exact (ne_marker_of_mem_esc hb).1 rfl

/-- Escaped bytes that fit are decoded. -/
theorem FrameOpen.decodes {s t : State} {p y : List Byte} (h : FrameOpen s .receiving p t)
    (hfits : fitsCap s.cfg (p.length + y.length) = true) :
    ∃ u, rxStream (y.flatMap esc) t = .next u ∧ FrameOpen s .receiving (p ++ y) u := by
  induction y generalizing p t with
  | nil => exact ⟨t, rfl, by rwa [List.append_nil]⟩
  | cons b y ih =>
    have hlen : p.length + (b :: y).length = (p ++ [b]).length + y.length := by simp +arith
    obtain ⟨u, hu, hopen⟩ := h.acceptByte_fits b (fitsCap_mono (by simp) hfits)
    obtain ⟨v, hv, hend⟩ := ih hopen (hlen ▸ hfits)
    refine ⟨v, ?_, by rwa [List.append_cons]⟩
    rw [List.flatMap_cons, rxStream_append_next ((rxStream_esc b h.rxState).trans hu), hv]

/-- Escaped bytes that do not all fit lose the frame. -/
theorem FrameOpen.overflows {s t : State} {p y : List Byte} (h : FrameOpen s .receiving p t)
    (hover : ¬ fitsCap s.cfg (p.length + y.length) = true) :
    ∃ u, rxStream (y.flatMap esc) t = .next u ∧ FrameLost s u := by
  induction y generalizing p t with
  | nil => exact absurd (h.cfg ▸ h.rxLen ▸ h.fits) hover
  | cons b y ih =>
    have hlen : p.length + (b :: y).length = (p ++ [b]).length + y.length := by simp +arith
    rw [List.flatMap_cons]
    by_cases hfits : fitsCap s.cfg (p.length + 1) = true
    · obtain ⟨u, hu, hopen⟩ := h.acceptByte_fits b hfits
      rw [rxStream_append_next ((rxStream_esc b h.rxState).trans hu)]
      exact ih hopen (hlen ▸ hover)
    · obtain ⟨u, hu, hlost⟩ := h.acceptByte_overflows b hfits
      rw [rxStream_append_next ((rxStream_esc b h.rxState).trans hu)]
      exact ⟨u, hlost.ignores (sof_notMem_flatMap_esc y), hlost⟩

/-! ### A whole frame -/

/-- A frame but for its end marker, where it fits: the packet and its checksum are in the buffer. -/
theorem rxStream_frame_fits {s : State} {x : List Byte} (hfits : fitsCap s.cfg (x.length + 1) = true) :
    ∃ t, rxStream (sof :: encodeBody s.cfg.crcInit x) s = .next t ∧
      FrameOpen s .receiving (x ++ [crc8From s.cfg.crcInit x]) t := by
  rw [rxStream_cons_next (rxStep_sof s), encodeBody_eq_flatMap]
  exact (frameOpen_openFrame s).decodes (by simpa using hfits)

/-- A frame that does not fit is lost, its end marker ignored with the rest of it. -/
theorem rxStream_frame_overflows {s : State} {x : List Byte} (hover : ¬ fitsCap s.cfg (x.length + 1) = true) :
    ∃ t, rxStream (encodeFrame s.cfg.crcInit x) s = .next t ∧ FrameLost s t := by
  obtain ⟨t, ht, hlost⟩ := (frameOpen_openFrame s).overflows (y := x ++ [crc8From s.cfg.crcInit x])
    (by simpa using hover)
  refine ⟨t, ?_, hlost⟩
  rw [← encodeBody_eq_flatMap, ← rxStream_cons_next (rxStep_sof s)] at ht
  exact (rxStream_append_next ht).trans (hlost.ignores (by decide))

theorem rxStream_encodeFrame {s t : State} {x : List Byte}
    (h : rxStream (sof :: encodeBody s.cfg.crcInit x) s = .next t) :
    rxStream (encodeFrame s.cfg.crcInit x) s = rxStep eof t :=
  (rxStream_append_next h).trans (rxStream_singleton eof t)

/-- Settles O40: before the end marker nothing is delivered, and then the residue is zero and the packet is all of the
buffer but its checksum. -/
theorem roundTripDelivers : Obligations.RoundTripDelivers := by
  intro s x hx hfits
  obtain ⟨t, ht, hopen⟩ := rxStream_frame_fits hfits
  have hlen : t.rxLen = x.length + 1 := by simpa using hopen.rxLen
  have hres : t.rxCrc = 0x00 := hopen.crc.trans ((residueZeroIffOwnChecksum _ _ _).mpr rfl)
  have hx' : bufBytes t (t.rxLen - 1) = some x := by
    have hbytes := hopen.bytes
    rw [hlen] at hbytes ⊢
    exact (bufBytes_succ_eq_snoc.mp hbytes).1
  have hend : rxStep eof t = .next (toIdle (deliver x t)) :=
    rxStep_eof_delivers hopen.rxState hres (by omega) hx'
  refine ⟨⟨t, ?_, hopen.rxPkt⟩, _, (rxStream_encodeFrame ht).trans hend, ?_, rfl⟩
  · rw [encodeFrame, List.dropLast_concat]
    exact ht
  · rw [toIdle_rxPkt, deliver_rxPkt, hopen.rxPkt]

/-- Settles O41: at the end marker the buffer has fewer than four bytes, if it has not overflown before. -/
theorem shortFrameDeliversNothing : Obligations.ShortFrameDeliversNothing := by
  intro s x hx
  by_cases hfits : fitsCap s.cfg (x.length + 1) = true
  · obtain ⟨t, ht, hopen⟩ := rxStream_frame_fits hfits
    have hlen : t.rxLen = x.length + 1 := by simpa using hopen.rxLen
    have hend : rxStep eof t = .next (toIdle t) := rxStep_eof_drops hopen.rxState (by omega)
    exact ⟨_, (rxStream_encodeFrame ht).trans hend, hopen.rxPkt, rfl⟩
  · obtain ⟨t, ht, hlost⟩ := rxStream_frame_overflows hfits
    exact ⟨t, ht, hlost.rxPkt, hlost.rxState⟩

/-- Settles O42: the frame overflows the buffer and is lost. -/
theorem longFrameDeliversNothing : Obligations.LongFrameDeliversNothing := by
  intro s x k hk hlong
  have hover : ¬ fitsCap s.cfg (x.length + 1) = true := by
    simp only [fitsCap, hk, decide_eq_true_eq]
    omega
  obtain ⟨t, ht, hlost⟩ := rxStream_frame_overflows hover
  exact ⟨t, ht, hlost.rxPkt, hlost.rxState⟩

end Sys2Proof.Machine
end

section
/-! PROOF. A single inverted bit is rejected (O44), by parity. The tap mask keeps the parity of the accumulator, and
the escape code that of the bytes: so, as long as no marker comes, the parity of `rx_crc` is that of the wire bytes and
`CRC_INIT`, whether or not the bytes are still paired as the encoder paired them. One inverted bit makes it odd, and a
residue of odd parity is not zero. -/

namespace Sys2Proof.Machine

/-! ### The parity of a byte and of a sequence -/

/-- Whether the number of set bits below bit `n` is odd. -/
def parityBelow : Nat → Byte → Bool
  | 0, _ => false
  | n + 1, b => parityBelow n b ^^ b.getLsbD n

/-- Whether the number of set bits is odd. -/
def parity (b : Byte) : Bool := parityBelow 8 b

/-- Whether the number of set bits in all the bytes is odd. -/
def seqParity : List Byte → Bool
  | [] => false
  | b :: w => parity b ^^ seqParity w

theorem parityBelow_xor (n : Nat) (a b : Byte) : parityBelow n (a ^^^ b) = (parityBelow n a ^^ parityBelow n b) := by
  induction n with
  | zero => rfl
  | succ n ih => simp only [parityBelow, ih, BitVec.getLsbD_xor, Bool.xor_assoc, Bool.xor_left_comm]

theorem parity_xor (a b : Byte) : parity (a ^^^ b) = (parity a ^^ parity b) := parityBelow_xor 8 a b

theorem parity_twoPow {j : Nat} (h : j < 8) : parity (BitVec.twoPow 8 j) = true := by
  revert j
  decide

theorem parity_escByte : parity escByte = false := by decide

theorem parity_complement (b : Byte) : parity (complement b) = parity b := by
  rw [complement, parity_xor, show parity 0xFF = false by decide, Bool.xor_false]

/-! ### The CRC8 keeps the parity -/

theorem parityBelow_succ (n : Nat) (x : Byte) :
    parityBelow (n + 1) x = (x.getLsbD 0 ^^ parityBelow n (x >>> 1)) := by
  induction n with
  | zero => simp [parityBelow]
  | succ n ih => rw [parityBelow, ih, parityBelow, BitVec.getLsbD_ushiftRight, Nat.add_comm 1, Bool.xor_assoc]

theorem parity_eq_shiftRight (x : Byte) : parity x = (x.getLsbD 0 ^^ parity (x >>> 1)) := by
  have htop : x.getLsbD 8 = false := BitVec.getLsbD_of_ge x 8 le_rfl
  have hnine := parityBelow_succ 8 x
  rwa [parityBelow, htop, Bool.xor_false] at hnine

/-- One iteration of R46 inverts three taps for the set bit that it shifts out. -/
theorem parity_crcShift (x : Byte) : parity (crcShift x) = parity x := by
  rw [parity_eq_shiftRight x, crcShift]
  cases x.getLsbD 0 with
  | false => simp
  | true => rw [if_pos rfl, parity_xor, show parity poly = true by decide, Bool.xor_comm]

theorem parity_crcShifts (n : Nat) (x : Byte) : parity (crcShifts n x) = parity x := by
  induction n generalizing x with
  | zero => rfl
  | succ n ih => rw [crcShifts, ih, parity_crcShift]

theorem parity_crc8Update (a b : Byte) : parity (crc8Update a b) = (parity a ^^ parity b) := by
  rw [crc8Update, parity_crcShifts, parity_xor]

theorem parity_crc8From (a : Byte) (w : List Byte) : parity (crc8From a w) = (parity a ^^ seqParity w) := by
  induction w generalizing a with
  | nil => simp [seqParity]
  | cons b w ih => rw [crc8From_cons, ih, parity_crc8Update, seqParity, Bool.xor_assoc]

/-! ### The parity of a frame's body -/

theorem seqParity_append (v w : List Byte) : seqParity (v ++ w) = (seqParity v ^^ seqParity w) := by
  induction v with
  | nil => simp [seqParity]
  | cons b v ih => rw [List.cons_append, seqParity, ih, seqParity, Bool.xor_assoc]

theorem seqParity_singleton (b : Byte) : seqParity [b] = parity b := Bool.xor_false _

theorem seqParity_esc (b : Byte) : seqParity (esc b) = parity b := by
  cases hb : reserved b with
  | false => rw [esc_of_not_reserved hb, seqParity_singleton]
  | true =>
    rw [esc_of_reserved hb, seqParity, seqParity_singleton, parity_complement, parity_escByte, Bool.false_xor]

theorem seqParity_flatMap_esc (y : List Byte) : seqParity (y.flatMap esc) = seqParity y := by
  induction y with
  | nil => rfl
  | cons b y ih => rw [List.flatMap_cons, seqParity_append, seqParity_esc, ih, seqParity]

/-- The checksum makes up the parity of the bytes to that of `CRC_INIT`. -/
theorem seqParity_encodeBody (c : Byte) (x : List Byte) : seqParity (encodeBody c x) = parity c := by
  rw [encodeBody_eq_flatMap, seqParity_flatMap_esc, seqParity_append, seqParity_singleton, parity_crc8From,
    Bool.xor_comm (parity c), ← Bool.xor_assoc, Bool.xor_self, Bool.false_xor]

theorem seqParity_set_flipped {w : List Byte} {k j : Nat} {v : Byte} (hk : w[k]? = some v) (hj : j < 8) :
    seqParity (w.set k (v ^^^ BitVec.twoPow 8 j)) = !seqParity w := by
  induction w generalizing k with
  | nil => simp at hk
  | cons b w ih =>
    cases k with
    | zero =>
      obtain rfl : b = v := by simpa using hk
      rw [List.set_cons_zero, seqParity, seqParity, parity_xor, parity_twoPow hj, Bool.xor_true, Bool.not_xor]
    | succ k => rw [List.set_cons_succ, seqParity, seqParity, ih (by simpa using hk), Bool.xor_not]

/-! ### RX on a body with no marker in it -/

/-- RX is somewhere in a frame whose decoded bytes have the parity `odd`, or has lost the frame; nothing has been
delivered since `s`. -/
def Decoding (s : State) (odd : Bool) (t : State) : Prop :=
  FrameLost s t ∨ ∃ st p, st ≠ .idle ∧ FrameOpen s st p t ∧ seqParity p = odd

/-- A decoded byte adds its parity. -/
theorem FrameOpen.acceptByte_decoding (v : Byte) {s t : State} {st : RxState} {p : List Byte}
    (h : FrameOpen s st p t) :
    ∃ u, acceptByte v t = .next u ∧ Decoding s (seqParity p ^^ parity v) u := by
  by_cases hfits : fitsCap s.cfg (p.length + 1) = true
  · obtain ⟨u, hu, hopen⟩ := h.acceptByte_fits v hfits
    exact ⟨u, hu, .inr ⟨_, _, by decide, hopen, by rw [seqParity_append, seqParity_singleton]⟩⟩
  · obtain ⟨u, hu, hlost⟩ := h.acceptByte_overflows v hfits
    exact ⟨u, hu, .inl hlost⟩

/-- A raw byte that is no marker adds its parity: the escape byte's is even, and a complement keeps it. -/
theorem Decoding.after_byte {s t : State} {odd : Bool} {b : Byte} (h : Decoding s odd t) (hsof : b ≠ sof)
    (heof : b ≠ eof) : ∃ u, rxStep b t = .next u ∧ Decoding s (odd ^^ parity b) u := by
  rcases h with hlost | ⟨st, p, hst, hopen, rfl⟩
  · exact ⟨t, rxStep_idle hlost.rxState hsof, .inl hlost⟩
  cases st with
  | idle => exact absurd rfl hst
  | escaping =>
    rw [rxStep_escaped hopen.rxState hsof, ← parity_complement]
    exact hopen.acceptByte_decoding (complement b)
  | receiving =>
    by_cases hesc : b = escByte
    · refine ⟨_, hesc ▸ rxStep_escByte hopen.rxState, .inr ⟨_, p, by decide, hopen.escaping, ?_⟩⟩
      rw [hesc, parity_escByte, Bool.xor_false]
    · rw [rxStep_literal hopen.rxState (reserved_eq_false_iff.mpr (by simp [hsof, heof, hesc]))]
      exact hopen.acceptByte_decoding b

theorem Decoding.after_bytes {s t : State} {odd : Bool} {w : List Byte} (h : Decoding s odd t)
    (hw : ∀ b ∈ w, b ≠ sof ∧ b ≠ eof) : ∃ u, rxStream w t = .next u ∧ Decoding s (odd ^^ seqParity w) u := by
  induction w generalizing t odd with
  | nil => exact ⟨t, rfl, by rwa [seqParity, Bool.xor_false]⟩
  | cons b w ih =>
    obtain ⟨⟨hsof, heof⟩, hrest⟩ := List.forall_mem_cons.mp hw
    obtain ⟨u, hu, hdec⟩ := h.after_byte hsof heof
    rw [rxStream_cons_next hu, seqParity, ← Bool.xor_assoc]
    exact ih hdec hrest

/-- At the end marker a parity other than that of `CRC_INIT` delivers nothing: the residue is not zero, or the marker
is taken as an escaped byte. -/
theorem Decoding.rejects_at_end {s t : State} (h : Decoding s (!parity s.cfg.crcInit) t) :
    ∃ u, rxStep eof t = .next u ∧ u.rxPkt = s.rxPkt := by
  rcases h with hlost | ⟨st, p, hst, hopen, hpar⟩
  · exact ⟨t, rxStep_idle hlost.rxState (by decide), hlost.rxPkt⟩
  cases st with
  | idle => exact absurd rfl hst
  | escaping =>
    rw [rxStep_escaped hopen.rxState (by decide)]
    obtain ⟨u, hu, hlost | ⟨_, _, _, hopen', _⟩⟩ := hopen.acceptByte_decoding (complement eof)
    · exact ⟨u, hu, hlost.rxPkt⟩
    · exact ⟨u, hu, hopen'.rxPkt⟩
  | receiving =>
    have hodd : parity t.rxCrc = true := by simp [hopen.crc, parity_crc8From, hpar]
    have hres : t.rxCrc ≠ 0x00 := fun hzero => absurd (hzero ▸ hodd) (by decide)
    exact ⟨toIdle t, rxStep_eof_drops hopen.rxState fun h => hres h.1, hopen.rxPkt⟩

/-- Between markers a body whose parity is not that of `CRC_INIT`, and that holds no marker, delivers nothing. -/
theorem rxStream_wrong_parity {s : State} {w : List Byte} (hw : ∀ b ∈ w, b ≠ sof ∧ b ≠ eof)
    (hpar : seqParity w = !parity s.cfg.crcInit) :
    ∃ t, rxStream (sof :: (w ++ [eof])) s = .next t ∧ t.rxPkt = s.rxPkt := by
  have hstart : Decoding s false (openFrame s) := .inr ⟨_, [], by decide, frameOpen_openFrame s, rfl⟩
  obtain ⟨t, ht, hdec⟩ := hstart.after_bytes hw
  rw [hpar, Bool.false_xor] at hdec
  rw [rxStream_cons_next (rxStep_sof s), rxStream_append_next ht, rxStream_singleton]
  exact hdec.rejects_at_end

/-! ### An interior byte of a frame -/

/-- The interior bytes of a frame are those of its body. -/
theorem encodeFrame_interior {c : Byte} {x : List Byte} {k : Nat} (h : k + 1 + 1 < (encodeFrame c x).length) :
    (encodeFrame c x)[k + 1]? = (encodeBody c x)[k]? ∧
    ∀ v, (encodeFrame c x).set (k + 1) v = sof :: ((encodeBody c x).set k v ++ [eof]) := by
  have hlt : k + 1 < ([sof] ++ encodeBody c x).length := by simpa [encodeFrame] using h
  exact ⟨List.getElem?_append_left hlt, fun v => List.set_append_left (k + 1) v hlt⟩

/-- Settles O44: the inverted bit turns the parity of the body, and leaves no marker in it. -/
theorem singleBitErrorIsRejected : Obligations.SingleBitErrorIsRejected := by
  intro s x k j w _ hk hend hw hj hsof heof
  obtain ⟨k, rfl⟩ := Nat.exists_eq_add_of_le' hk
  obtain ⟨hget, hset⟩ := encodeFrame_interior hend
  rw [hget] at hw
  rw [hset]
  refine rxStream_wrong_parity (fun b hb => ?_) ?_
  · rcases List.mem_or_eq_of_mem_set hb with hb | rfl
    · exact ne_marker_of_mem_encodeBody hb
    · exact ⟨hsof, heof⟩
  · rw [seqParity_set_flipped hw hj, seqParity_encodeBody]

end Sys2Proof.Machine
end

section
/-! PROOF. The causes of a drop, each with its condition (O33), and all that a drop writes (O34). -/

namespace Sys2Proof.Machine

/-! ### When a cause is raised -/

/-- RX.END's tests in their order, on the registers (60_exceptions R83, R89). -/
theorem endCause_eq_ite (s : State) :
    endCause s =
      if s.rxCrc ≠ 0x00 then some .framingError
      else if s.rxLen = 0 then some .emptyFrame
      else if s.rxLen ≤ 3 then some .protocolViolation
      else none := by
  have hhdr : hdrLen ≤ s.rxLen - 1 ↔ ¬ s.rxLen ≤ 3 := by
    rw [hdrLen]
    omega
  simp [endCause, residueZero, bufNonempty, hdrOk, hhdr]

theorem endCause_framingError {s : State} : endCause s = some .framingError ↔ s.rxCrc ≠ 0x00 := by
  rw [endCause_eq_ite]
  split_ifs <;> simp_all

theorem endCause_emptyFrame {s : State} : endCause s = some .emptyFrame ↔ s.rxCrc = 0x00 ∧ s.rxLen = 0 := by
  rw [endCause_eq_ite]
  split_ifs <;> simp_all

theorem endCause_protocolViolation {s : State} :
    endCause s = some .protocolViolation ↔ s.rxCrc = 0x00 ∧ 1 ≤ s.rxLen ∧ s.rxLen ≤ 3 := by
  rw [endCause_eq_ite]
  split_ifs <;> simp_all [Nat.one_le_iff_ne_zero]

theorem startCause_abandoned {s : State} :
    startCause s = some .abandoned ↔ s.rxState = .receiving ∨ s.rxState = .escaping := by
  unfold startCause
  cases s.rxState <;> simp

theorem appendCause_overflow {s : State} : appendCause s = some .overflow ↔ s.cfg.bufCap = some s.rxLen := by
  rw [← bufFull_iff]
  simp [appendCause]

/-- Settles O33: each operation's cause by its own tests. -/
theorem dropCausesExactly : Obligations.DropCausesExactly := fun _ _ =>
  ⟨endCause_framingError, endCause_emptyFrame, endCause_protocolViolation, endCause_none, startCause_abandoned,
    appendCause_overflow, appendCause_overflow⟩

/-! ### What a drop writes -/

/-- The registers a drop writes, for every cause (60_exceptions R84 to R88, R90). -/
theorem raiseDrop_writes (c : DropCause) (s : State) :
    raiseDrop c s =
      { s with rxState := if c = .abandoned then .receiving else .idle, rxLen := 0, rxCrc := s.cfg.crcInit } := by
  cases c <;> rfl

theorem acceptByte_of_cause (v : Byte) {s : State} {c : DropCause} (h : appendCause s = some c) :
    acceptByte v s = .next (raiseDrop c s) := by
  simp [acceptByte, h]

/-- RX.DATA and RX.XDATA alike: where the raw byte selects them, the cause decides. -/
theorem eq_raiseDrop_of_acceptByte {selected : Bool} {v : Byte} {c : DropCause} {s t : State}
    (hc : appendCause s = some c) (h : whenSelected selected (acceptByte v s) = .next t) : t = raiseDrop c s :=
  Host.Outcome.next.inj ((whenSelected_eq_next.mp h).2.symm.trans (acceptByte_of_cause v hc))

/-- An operation with a cause completes by raising it, and in no other way. -/
theorem exec_eq_raiseDrop {i : Instr} {c : DropCause} {s t : State} (hc : dropCause i s = some c)
    (h : exec i s = .next t) : t = raiseDrop c s := by
  cases i <;> simp only [dropCause, reduceCtorEq] at hc
  case rxStart =>
    obtain rfl := startCause_eq hc
    exact Host.Outcome.next.inj (h.symm.trans (execRxStart_eq s))
  case rxEnd =>
    obtain ⟨-, ⟨-, rfl⟩ | ⟨hres, hlen, -⟩⟩ := execRxEnd_eq_next.mp h
    · rw [raiseDrop_eq, if_neg (endCause_ne_abandoned hc)]
    · exact nomatch hc.symm.trans (endCause_none.mpr ⟨hres, hlen⟩)
  case rxXdata => exact eq_raiseDrop_of_acceptByte hc h
  case rxData => exact eq_raiseDrop_of_acceptByte hc h

/-- Settles O34: whichever operation drops, it completes by the one `raiseDrop`. -/
theorem dropIsSilent : Obligations.DropIsSilent := fun _ c s _ hc h =>
  (exec_eq_raiseDrop hc h).trans (raiseDrop_writes c s)

end Sys2Proof.Machine
end

section
/-! PROOF. What RESET writes (O49), and that a step performs it before anything else (O56). -/

namespace Sys2Proof.Machine

/-- Settles O49: RX leaves its frame by `toIdle`, TX returns to `TxIdle` with its accumulator clear, and `acc` is
cleared (70_reset_and_hazards R95). -/
theorem resetCompletes : Obligations.ResetCompletes := fun _ => rfl

/-- Settles O56: while the reset input is asserted the schedule and what is presented are not consulted. -/
theorem resetHasPriority : Obligations.ResetHasPriority := fun _ hr => step_of_resetIn hr

end Sys2Proof.Machine
end

section
/-! PROOF. The bit-serial and the shift-register forms of the CRC8 against the loop of R46 (O11). Both rest on one
serial iteration written bit by bit (`getLsbD_crcBitStep`). -/

namespace Sys2Proof.Machine

theorem getLsbD_crcBitStep (a : Byte) (d : Bool) (i : Nat) :
    (crcBitStep a d).getLsbD i = xor (a.getLsbD (i + 1)) (xor (a.getLsbD 0) d && poly.getLsbD i) := by
  unfold crcBitStep
  cases xor (a.getLsbD 0) d <;> simp [Nat.add_comm 1]

/-- A serial iteration that takes the low bit of a byte already mixed into the accumulator is one iteration of R46,
with the byte's other bits left mixed in, one place down. -/
theorem crcBitStep_xor_low (x y : Byte) : crcBitStep (x ^^^ y) (y.getLsbD 0) = crcShift x ^^^ y >>> 1 := by
  apply BitVec.eq_of_getLsbD_eq
  intro i _
  have hout : xor ((x ^^^ y).getLsbD 0) (y.getLsbD 0) = x.getLsbD 0 := by simp
  rw [getLsbD_crcBitStep, hout]
  simp only [BitVec.getLsbD_xor, getLsbD_crcShift, BitVec.getLsbD_ushiftRight, Nat.add_comm 1 i, Bool.xor_assoc,
    Bool.xor_comm, Bool.xor_left_comm]

/-- Serial iterations on the `n` data bits from bit `i` on are `n` iterations of R46: the data bits still to come are
those mixed into the accumulator. -/
theorem crcBitSteps_xor (n i : Nat) (x b : Byte) :
    (List.range' i n).foldl (fun a j => crcBitStep a (b.getLsbD j)) (x ^^^ b >>> i) =
      crcShifts n x ^^^ b >>> (i + n) := by
  induction n generalizing i x with
  | zero => rfl
  | succ n ih =>
    have hbit : b.getLsbD i = (b >>> i).getLsbD 0 := by simp
    rw [List.range'_succ, List.foldl_cons, hbit, crcBitStep_xor_low, ← BitVec.shiftRight_add, ih, crcShifts,
      Nat.add_right_comm, Nat.add_assoc]

theorem crc8UpdateSerial_eq_crc8Update (acc b : Byte) : crc8UpdateSerial acc b = crc8Update acc b := by
  have hstart : acc ^^^ b ^^^ b >>> 0 = acc := by simp
  have hend : b >>> (0 + 8) = 0#8 := BitVec.ushiftRight_eq_zero le_rfl
  calc crc8UpdateSerial acc b
      = (List.range' 0 8).foldl (fun a j => crcBitStep a (b.getLsbD j)) (acc ^^^ b ^^^ b >>> 0) := by
        rw [hstart]; rfl
    _ = crcShifts 8 (acc ^^^ b) ^^^ b >>> (0 + 8) := crcBitSteps_xor 8 0 (acc ^^^ b) b
    _ = crc8Update acc b := by rw [hend, BitVec.xor_zero, crc8Update]

/-- The register's feedback goes to the taps of the mask: it enters bit 7, where the shift brings in a 0, and
inverts bits 3 and 2. -/
theorem crcRegisterStep_eq_crcBitStep (a : Byte) (d : Bool) : crcRegisterStep a d = crcBitStep a d := by
  apply BitVec.eq_of_getLsbD_eq
  intro i hi
  rw [getLsbD_crcBitStep]
  refine BitVec.getLsbD_ofBoolListBE.trans ?_
  interval_cases i <;> simp [poly]

/-- Settles O11: the serial form by its iterations, the register form by one. -/
theorem crcFormsAgree : Obligations.CrcFormsAgree := ⟨crc8UpdateSerial_eq_crc8Update, crcRegisterStep_eq_crcBitStep⟩

end Sys2Proof.Machine
end

section
/-! PROOF. Words of the spec's tables and examples (O5), each by its row of the decoding. -/

namespace Sys2Proof

open Machine

/-- Settles O5: raw bytes by their rows of R38, command words by their codes. -/
theorem specWordsDecode : Obligations.SpecWordsDecode :=
  ⟨decodeRx_sof .escaping, decodeRx_idle (by decide), decodeRx_eof, decodeRx_esc, decodeRx_escaping (by decide),
    decodeRx_escaping (by decide), decodeRx_literal (by decide), decodeTx_reserved (by decide),
    decodeTx_open (by decide), decodeTx_byteWord 0x5A, decodeTx_close (by decide), decodeCrc_clear (by decide),
    decodeCrc_updateWord 0xD8⟩

end Sys2Proof
end
